-- ==== Sys2Proof/Word.lean ====
section
/-! DEFINITION. The word types of the block: a byte (`00_scope.md` R8) and a channel value (`10_state.md` R21). -/

namespace Sys2Proof

/-- A byte: 8 bits, bit 0 the least significant (R8; `BYTE_W` of R6). -/
abbrev Byte := BitVec 8

/-- A channel value: 11 bits, an unsigned integer 0 to 2047 (R21; `CH_W` of R6). -/
abbrev Channel := BitVec 11

/-- ChannelSet: 16 channel values, index 0 to 15 (R21; `N_CH` of R6). -/
abbrev ChannelSet := Vector Channel 16

/-- ByteBuffer: the bytes awaiting parsing, front first; offset `i` is index `i` (R28, R50). -/
abbrev Memory := List Byte

end Sys2Proof
end

