-- ==== Sys2Proof/Config.lean ====
section
/-! DEFINITION. What is fixed for one instance of the block: the open parameters of `00_scope.md` R6 as plain data, the
link-statistics record they give a reset value to, and the free values of the two outcome ports. -/

namespace Sys2Proof

/-- LinkStats: 7 fields of 8 bits, each the payload byte unchanged (`10_state.md` R22). -/
structure LinkStats where
  /-- index 0 -/
  rssi1 : Byte
  /-- index 1 -/
  rssi2 : Byte
  /-- index 2 -/
  linkQuality : Byte
  /-- index 3, read as two's complement -/
  snr : Byte
  /-- index 4 -/
  activeAntenna : Byte
  /-- index 5 -/
  rfMode : Byte
  /-- index 6 -/
  txPower : Byte
  deriving DecidableEq, Repr

/-- `SHORT_LEN_POLICY`: what a declared length of 0 or 1 does (`92_eei_decisions.md` D6). -/
inductive ShortLenPolicy where
  /-- a sync error: drop one byte (the spec's default, `41_frame_sync.md` R144) -/
  | discardOne
  /-- the model gives a run that meets the case no meaning -/
  | refuse
  deriving DecidableEq, Repr

/-- `US_ROUND`: the rounding of the microsecond map (`92_eei_decisions.md` D16). -/
inductive UsRound where
  /-- floor of the exact quotient (the spec's default, `45_host_interface.md` R239) -/
  | floor
  /-- truncation of the quotient toward zero -/
  | truncate
  /-- rounding of the quotient to nearest -/
  | nearest
  deriving DecidableEq, Repr

/-- The parameters the spec leaves open or lets a model take as arguments (`00_scope.md` R6). They stand in `State.cfg`, so
that a statement about every state is a statement about every parameter; no instruction changes them (`10_state.md` R25). -/
structure Config where
  /-- `ADDR_WHITELIST` (`30_encoding.md` R83, D4) -/
  addrWhitelist : List Byte
  /-- `SHORT_LEN_POLICY` (D6) -/
  shortLenPolicy : ShortLenPolicy
  /-- `CRC_INIT` (`40_crc8.md` R122, D5) -/
  crcInit : Byte
  /-- `US_ROUND` (`45_host_interface.md` R239, D16) -/
  usRound : UsRound
  /-- `BUF_CAP`; none is unbounded (`20_memory.md` R67, D9) -/
  bufCap : Option Nat
  /-- `CNT_W`; none is unbounded (`70_reset_and_hazards.md` R319, D10) -/
  cntW : Option Nat
  /-- `CH_INIT` (`10_state.md` R30, D11) -/
  chInit : ChannelSet
  /-- `LS_INIT` (`10_state.md` R30, D11) -/
  lsInit : LinkStats
  deriving DecidableEq, Repr

/-- FREE VALUE: the `outcome_type` port where the outcome carries no type byte ("otherwise unspecified",
`45_host_interface.md` R231; `93_implementation_defined.md` U15). Applied to `State.freeIdx`. -/
opaque Config.freeOutcomeType : Nat → BitVec 8

/-- FREE VALUE: the `outcome` port before any `MSTEP` or `ATTEMPT` ("meaningful only as that transaction's result",
`45_host_interface.md` R231). Applied to `State.freeIdx`. -/
opaque Config.freeOutcome : Nat → BitVec 4

end Sys2Proof
end

