-- ==== Sys2Proof/Machine/Params.lean ====
section
/-! DEFINITION. The constants of `00_scope.md` R6 and the default of each open parameter. -/

namespace Sys2Proof.Machine

/-- `MIN_BUF`: bytes buffered before any decision (`41_frame_sync.md` R141). -/
def minBuf : Nat := 4
/-- `MAX_LEN`: the largest admitted length byte (`30_encoding.md` R84). -/
def maxLen : Nat := 64
/-- `MIN_LEN`: the smallest admitted length byte (`30_encoding.md` R84, D6). -/
def minLen : Nat := 2
/-- `HDR_LEN`: added to the length byte it gives the frame's size (`41_frame_sync.md` R145). -/
def hdrLen : Nat := 2
/-- `RC_PAYLOAD_MIN` (`43_rc_channels.md` R191). -/
def rcPayloadMin : Nat := 22
/-- `LS_PAYLOAD_MIN` (`44_link_stats.md` R211). -/
def lsPayloadMin : Nat := 10
/-- `CRC_POLY` (`40_crc8.md` R121). -/
def crcPoly : Byte := 0xD5#8
/-- `TYPE_RC_CHANNELS_PACKED` (`30_encoding.md` R85). -/
def typeRcChannelsPacked : Byte := 0x16#8
/-- `TYPE_LINK_STATISTICS` (`30_encoding.md` R85). -/
def typeLinkStatistics : Byte := 0x14#8
/-- `NORM_CENTER` (`45_host_interface.md` R238). -/
def normCenter : Int := 992
/-- `NORM_SPAN` (`45_host_interface.md` R238). -/
def normSpan : Nat := 819
/-- `US_BASE` (`45_host_interface.md` R239). -/
def usBase : Int := 1000
/-- `US_RANGE` (`45_host_interface.md` R239). -/
def usRange : Int := 1000
/-- `US_RAW_LO` (`45_host_interface.md` R239). -/
def usRawLo : Int := 172
/-- `US_RAW_SPAN` (`45_host_interface.md` R239). -/
def usRawSpan : Int := 1639

/-- The default `ADDR_WHITELIST` of `30_encoding.md` R83. PRESUMED: the spec itself takes ten of the values from general
knowledge (D4, G2); unsafe, log 3. -/
def defaultWhitelist : List Byte :=
  [0x00#8, 0x10#8, 0x80#8, 0x8A#8, 0xC0#8, 0xC2#8, 0xC4#8, 0xC8#8, 0xCA#8, 0xCC#8, 0xEA#8, 0xEC#8, 0xEE#8]

/-- The default `CRC_INIT` (`40_crc8.md` R122). PRESUMED by the spec (D5, G1); unsafe, log 4. -/
def defaultCrcInit : Byte := 0x00#8

/-- `CH_INIT` of `State.reset`. DESIGN CHOICE: the spec gives none (`10_state.md` R30); unsafe, log 6. -/
def defaultChInit : ChannelSet := Vector.replicate 16 0#11

/-- `LS_INIT` of `State.reset`. DESIGN CHOICE: the spec gives none (`10_state.md` R30); unsafe, log 7. -/
def defaultLsInit : LinkStats := ⟨0#8, 0#8, 0#8, 0#8, 0#8, 0#8, 0#8⟩

/-- The parameters `State.reset` takes: the spec's defaults (`00_scope.md` R6), and the two initial values above. -/
def defaultConfig : Config where
  addrWhitelist := defaultWhitelist
  shortLenPolicy := .discardOne
  crcInit := defaultCrcInit
  usRound := .floor
  bufCap := none
  cntW := none
  chInit := defaultChInit
  lsInit := defaultLsInit

end Sys2Proof.Machine
end

