-- ==== Sys2Proof/Machine/Bytes.lean ====
section
/-! DEFINITION. Byte lists and integers: slices, byte order, sign (`00_scope.md` R8, R9; `20_memory.md` R52). -/

namespace Sys2Proof.Machine

/-- `sub(l, a, n)`: the `n` elements from index `a` (R9). -/
def sub (l : List Byte) (a n : Nat) : List Byte := (l.drop a).take n

/-- `l[i]` (R9). Every use has a length guard that makes the index valid, so the value past the end is never read. -/
def byteAt (l : List Byte) (i : Nat) : Byte := l.getD i 0#8

/-- `signed8(b)`: `b` if `b < 128`, else `b - 256` (R8). -/
def signed8 (b : Byte) : Int := if b.toNat < 128 then (b.toNat : Int) else (b.toNat : Int) - 256

/-- The little-endian integer of a byte list: the sum of `l[i] * 2^(8i)` (R52). -/
def leNat : List Byte → Nat
  | [] => 0
  | b :: rest => b.toNat + 2 ^ 8 * leNat rest

/-- The integer 16 channel values make, channel `k` at bit `11k`: the sum of `c[k] * 2^(11k)` (`43_rc_channels.md` R196). -/
def channelsNat : List Channel → Nat
  | [] => 0
  | c :: rest => c.toNat + 2 ^ 11 * channelsNat rest

end Sys2Proof.Machine
end

