-- ==== Sys2Proof/Machine/Crc8.lean ====
section
/-! DEFINITION. The CRC8 (DVB-S2) function (`40_crc8.md`). -/

namespace Sys2Proof.Machine

/-- One of the 8 inner iterations of R121: the test of bit 7 is made on the value about to be shifted. -/
def crcShift (acc : Byte) : Byte :=
  if acc.getLsbD 7 then (acc <<< 1) ^^^ crcPoly else acc <<< 1

/-- Eight iterations (R121). -/
def crcShift8 (acc : Byte) : Byte :=
  crcShift (crcShift (crcShift (crcShift (crcShift (crcShift (crcShift (crcShift acc)))))))

/-- The bytes in list order, each exclusive-or'ed into the accumulator before its 8 iterations (R121). -/
def crcRun (acc : Byte) : List Byte → Byte
  | [] => acc
  | b :: rest => crcRun (crcShift8 (acc ^^^ b)) rest

/-- `crc8(data)` with the initial value `CRC_INIT` of R122 as an argument (`93_implementation_defined.md` U16). -/
def crc8 (init : Byte) (data : List Byte) : Byte := crcRun init data

end Sys2Proof.Machine
end

