-- ==== Sys2Proof/Machine/Operands.lean ====
section
/-! DEFINITION. The operands of the two decoded frame types: the RC payload as 16 channel values (`30_encoding.md` R86) and
the link-statistics payload as 7 bytes (R87). -/

namespace Sys2Proof.Machine

/-- `UNPACK(p)` with `p = take(22, payload)` (`43_rc_channels.md` R192, R194): channel `k` is `(N >> 11k) & 0x7FF` of the
little-endian integer `N`. -/
def unpack (payload : List Byte) : ChannelSet :=
  Vector.ofFn fun k => BitVec.ofNat 11 (leNat (payload.take rcPayloadMin) >>> (11 * k.val))

/-- The byte-level form of one channel (`43_rc_channels.md` R193): with `o = 11k`, `B = o / 8`, `s = o mod 8`, the value
`((p[B] | p[B+1] << 8 | X << 16) >> s) & 0x7FF` where `X` is `p[B+2]` if `s >= 6` and 0 otherwise. -/
def unpackByteLevel (payload : List Byte) (k : Nat) : Channel :=
  let o := 11 * k
  let b := o / 8
  let s := o % 8
  let x := if 6 ≤ s then (byteAt payload (b + 2)).toNat else 0
  BitVec.ofNat 11 (((byteAt payload b).toNat ||| (byteAt payload (b + 1)).toNat <<< 8 ||| x <<< 16) >>> s)

/-- `pack(c)`: the 22 bytes of the integer the 16 values make (`43_rc_channels.md` R196). The block itself never packs. -/
def pack (c : ChannelSet) : List Byte :=
  (List.range rcPayloadMin).map fun i => BitVec.ofNat 8 (channelsNat c.toList >>> (8 * i))

/-- `LSMAP(payload)`: bytes 0 to 6, one field each (`44_link_stats.md` R212). -/
def lsMap (payload : List Byte) : LinkStats where
  rssi1 := byteAt payload 0
  rssi2 := byteAt payload 1
  linkQuality := byteAt payload 2
  snr := byteAt payload 3
  activeAntenna := byteAt payload 4
  rfMode := byteAt payload 5
  txPower := byteAt payload 6

end Sys2Proof.Machine
end

