-- ==== Sys2Proof/Syntax.lean ====
section
/-! DEFINITION. The instructions: one constructor per row of `spec/opcode_table.json`; the outcomes
of a decode step; and the transactions by which the host issues its operations. -/

namespace Sys2Proof

/-- The instructions of the block (`00_scope.md` R2): the three frame types a CRC-valid frame can have, the host commands,
the queries and the two pseudo-instructions of the table. -/
inductive Instr where
  /-- `RC_CHANNELS_PACKED`: an extracted, CRC-valid frame of type 0x16: its address and its payload (`43_rc_channels.md` R190) -/
  | rcChannelsPacked (addr : Byte) (payload : List Byte)
  /-- `LINK_STATISTICS`: an extracted, CRC-valid frame of type 0x14 (`44_link_stats.md` R210) -/
  | linkStatistics (addr : Byte) (payload : List Byte)
  /-- `OTHER_TYPE`: an extracted, CRC-valid frame of any other type (`42_dispatch.md` R176) -/
  | otherType (addr : Byte) (type : Byte) (payload : List Byte)
  /-- `IDLE`, command 0 (`45_host_interface.md` R232) -/
  | idle
  /-- `PUSH b`, command 1 with `din = b` (`45_host_interface.md` R233) -/
  | push (b : Byte)
  /-- `MSTEP`, command 2 (`41_frame_sync.md` R147) -/
  | mstep
  /-- `ATTEMPT`, command 3 (`41_frame_sync.md` R148) -/
  | attempt
  /-- `RESERVED_CMD`, commands 4 to 7: command bits `1cc` (`45_host_interface.md` R236) -/
  | reservedCmd (c : BitVec 2)
  /-- `GET_CHANNELS` (`45_host_interface.md` R237) -/
  | getChannels
  /-- `GET_CHANNELS_NORM` (`45_host_interface.md` R238) -/
  | getChannelsNorm
  /-- `GET_CHANNELS_US` (`45_host_interface.md` R239) -/
  | getChannelsUs
  /-- `GET_LINK_STATS` (`45_host_interface.md` R240) -/
  | getLinkStats
  /-- `GET_COUNTERS` (`45_host_interface.md` R241) -/
  | getCounters
  /-- `FEED b0 … bn` (`45_host_interface.md` R234, `30_encoding.md` R94) -/
  | feed (bytes : List Byte)
  /-- `DRAIN` (`41_frame_sync.md` R155, `30_encoding.md` R94) -/
  | drain
  deriving DecidableEq, Repr

/-- The five queries, which have a name and no command code (`30_encoding.md` R92, R93). -/
inductive Query where
  | channels
  | channelsNorm
  | channelsUs
  | linkStats
  | counters
  deriving DecidableEq, Repr

namespace Machine

/-- The outcome of an `MSTEP` or `ATTEMPT` (`60_exceptions.md` R271), with the type byte where it records one. -/
inductive DecodeOutcome where
  | waitShort
  | waitIncomplete
  | discardAddr
  | discardLenOver
  | discardLenUnder
  | crcError
  | frameChannels
  | frameLinkStats
  | frameSkipped (t : Byte)
  | frameOther (t : Byte)
  deriving DecidableEq, Repr

end Machine

/-- One transaction of the host, as the block receives it (`45_host_interface.md` R231; a line of a program in the notation
of `30_encoding.md` R93, R94). -/
inductive Transaction where
  /-- the input ports `rst`, `cmd[2:0]`, `din[7:0]` of one transaction -/
  | port (rst : Bool) (cmd : BitVec 3) (din : Byte)
  /-- a query, by its name -/
  | query (q : Query)
  /-- the pseudo-instruction `FEED` -/
  | feed (bytes : List Byte)
  /-- the pseudo-instruction `DRAIN` -/
  | drain
  /-- MODEL: the rest of a `DRAIN` in progress, with the outcomes its attempts have returned so far (`41_frame_sync.md`
  R155: a sequence of atomic attempts); only an attempt of a drain puts it in the queue (log 15) -/
  | drainOn (outcomes : List Machine.DecodeOutcome)
  deriving DecidableEq, Repr

end Sys2Proof
end

