-- ==== Sys2Proof/WellFormed.lean ====
section
/-! DEFINITION. Which parameters and which instructions are well formed: what the spec demands of `ADDR_WHITELIST` and
`BUF_CAP`, and the legal values of a frame's fields (`30_encoding.md` R80). -/

namespace Sys2Proof

/-- `ADDR_WHITELIST` has exactly 13 values, no value twice, the least 0x00, the greatest 0xEE, and contains 0xC8
(`30_encoding.md` R83). -/
def Config.whitelistWf (cfg : Config) : Bool :=
  decide (cfg.addrWhitelist.length = 13) && decide cfg.addrWhitelist.Nodup
    && cfg.addrWhitelist.contains 0x00#8 && cfg.addrWhitelist.contains 0xEE#8 && cfg.addrWhitelist.contains 0xC8#8
    && cfg.addrWhitelist.all fun a => decide (a.toNat ≤ 0xEE)

/-- A finite `BUF_CAP` is at least 66, so that every admissible frame can be completed (`20_memory.md` R67). -/
def Config.bufCapWf (cfg : Config) : Bool :=
  match cfg.bufCap with
  | none => true
  | some cap => decide (66 ≤ cap)

/-- The constraints the spec puts on the open parameters. -/
def Config.wf (cfg : Config) : Bool := cfg.whitelistWf && cfg.bufCapWf

/-- A frame's payload has 0 to 62 bytes (`30_encoding.md` R80, R81). -/
def payloadWf (payload : List Byte) : Bool := decide (payload.length + Machine.minLen ≤ Machine.maxLen)

/-- A frame's address is a member of `ADDR_WHITELIST` (`30_encoding.md` R80, R83). -/
def addressWf (cfg : Config) (addr : Byte) : Bool := cfg.addrWhitelist.contains addr

/-- The operands an encoding of the instruction admits. -/
def Instr.wf (cfg : Config) : Instr → Bool
  | .rcChannelsPacked addr payload => addressWf cfg addr && payloadWf payload
  | .linkStatistics addr payload => addressWf cfg addr && payloadWf payload
  | .otherType addr type payload =>
      addressWf cfg addr && payloadWf payload
        && decide (type ≠ Machine.typeRcChannelsPacked) && decide (type ≠ Machine.typeLinkStatistics)
  | .idle => true
  | .push _ => true
  | .mstep => true
  | .attempt => true
  | .reservedCmd _ => true
  | .getChannels => true
  | .getChannelsNorm => true
  | .getChannelsUs => true
  | .getLinkStats => true
  | .getCounters => true
  | .feed _ => true
  | .drain => true

end Sys2Proof
end

