-- ==== Sys2Proof/Decode.lean ====
section
/-! DEFINITION. Decoding: what stands at the front of a byte list (`30_encoding.md` R80 to R89), the frame as an instruction
(R85), the host's transactions (R92, R93); then the encoder, written from the same tables; then the two words the host's own
check uses. -/

namespace Sys2Proof

/-- A frame's fields by their offsets (`30_encoding.md` R80). -/
structure WireFrame where
  /-- offset 0 -/
  address : Byte
  /-- offset 1, the declared length `L` -/
  length : Byte
  /-- offset 2 -/
  type : Byte
  /-- offsets 3 to `L` -/
  payload : List Byte
  /-- offset `L + 1` -/
  crc : Byte
  deriving DecidableEq, Repr

/-- The parts of the `L + 2` bytes the synchronizer hands over (`42_dispatch.md` R170). -/
def WireFrame.ofBytes (f : List Byte) : WireFrame where
  address := Machine.byteAt f 0
  length := Machine.byteAt f 1
  type := Machine.byteAt f 2
  payload := Machine.sub f 3 ((Machine.byteAt f 1).toNat - 2)
  crc := Machine.byteAt f ((Machine.byteAt f 1).toNat + 1)

/-- The frame's size `T = L + 2` (`30_encoding.md` R81). -/
def WireFrame.size (f : WireFrame) : Nat := f.length.toNat + Machine.hdrLen

/-- The span the CRC covers: `[type] ++ payload` (`30_encoding.md` R88, `42_dispatch.md` R170). -/
def WireFrame.covered (f : WireFrame) : List Byte := f.type :: f.payload

/-- The CRC check (`42_dispatch.md` R171). -/
def WireFrame.crcOk (cfg : Config) (f : WireFrame) : Bool := Machine.crc8 cfg.crcInit f.covered == f.crc

/-- What stands at the front of a buffer (`30_encoding.md` R89, in the order of `60_exceptions.md` R281). -/
inductive Front where
  /-- fewer than 4 bytes (`41_frame_sync.md` R141) -/
  | short
  /-- `buf[0]` not in `ADDR_WHITELIST` (R142) -/
  | badAddress
  /-- `buf[1]` above 64 (R143) -/
  | lengthOver
  /-- `buf[1]` below 2 (R144) -/
  | lengthUnder
  /-- fewer than `buf[1] + 2` bytes (R145) -/
  | incomplete
  /-- a candidate frame, complete (R146) -/
  | frame (f : WireFrame)
  deriving DecidableEq, Repr

/-- Steps 1 to 5 of the synchronizer as a reading of the buffer (`41_frame_sync.md` R147). -/
def front (cfg : Config) (buf : List Byte) : Front :=
  if buf.length < Machine.minBuf then .short
  else if Machine.byteAt buf 0 ∉ cfg.addrWhitelist then .badAddress
  else if Machine.maxLen < (Machine.byteAt buf 1).toNat then .lengthOver
  else if (Machine.byteAt buf 1).toNat < Machine.minLen then .lengthUnder
  else if buf.length < (Machine.byteAt buf 1).toNat + Machine.hdrLen then .incomplete
  else .frame (WireFrame.ofBytes (Machine.sub buf 0 ((Machine.byteAt buf 1).toNat + Machine.hdrLen)))

/-- The instruction a CRC-valid frame is, by its whole type byte (`30_encoding.md` R85, `42_dispatch.md` R174). -/
def WireFrame.instr (f : WireFrame) : Instr :=
  if f.type = Machine.typeRcChannelsPacked then .rcChannelsPacked f.address f.payload
  else if f.type = Machine.typeLinkStatistics then .linkStatistics f.address f.payload
  else .otherType f.address f.type f.payload

/-- Why the bytes at the front are no instruction. -/
inductive DecodeReject where
  /-- fewer than 4 bytes -/
  | short
  /-- illegal address -/
  | badAddress
  /-- illegal length, over -/
  | lengthOver
  /-- illegal length, under -/
  | lengthUnder
  /-- the frame is not complete -/
  | incomplete
  /-- the CRC check fails -/
  | badCrc
  deriving DecidableEq, Repr

/-- The instruction at the front of a byte list, and the bytes after it; total, rejecting by name. -/
def decode (cfg : Config) (buf : List Byte) : Except DecodeReject (Instr × List Byte) :=
  match front cfg buf with
  | .short => .error .short
  | .badAddress => .error .badAddress
  | .lengthOver => .error .lengthOver
  | .lengthUnder => .error .lengthUnder
  | .incomplete => .error .incomplete
  | .frame f => if f.crcOk cfg then .ok (f.instr, buf.drop f.size) else .error .badCrc

/-- The host command of a code, with the byte on `din` (`30_encoding.md` R92). -/
def decodeCommand (cmd : BitVec 3) (din : Byte) : Instr :=
  match cmd.toNat with
  | 0 => .idle
  | 1 => .push din
  | 2 => .mstep
  | 3 => .attempt
  | _ => .reservedCmd (cmd.extractLsb' 0 2)

/-- The query of a name (`45_host_interface.md` R230). -/
def decodeQuery : Query → Instr
  | .channels => .getChannels
  | .channelsNorm => .getChannelsNorm
  | .channelsUs => .getChannelsUs
  | .linkStats => .getLinkStats
  | .counters => .getCounters

/-- What a transaction makes the block do. -/
inductive HostAction where
  /-- `rst` is asserted: the reset values, and no command is accepted (`45_host_interface.md` R231) -/
  | reset
  /-- an operation -/
  | run (i : Instr)
  /-- the next attempt of a drain in progress, with the outcomes so far (`41_frame_sync.md` R155) -/
  | resume (outcomes : List Machine.DecodeOutcome)
  deriving DecidableEq, Repr

/-- The action of a transaction (`45_host_interface.md` R230, R231; `30_encoding.md` R92 to R94). -/
def decodeTransaction : Transaction → HostAction
  | .port true _ _ => .reset
  | .port false cmd din => .run (decodeCommand cmd din)
  | .query q => .run (decodeQuery q)
  | .feed bytes => .run (.feed bytes)
  | .drain => .run .drain
  | .drainOn outcomes => .resume outcomes

/-! ## The encoder -/

/-- `FRAME(a, t, payload)`: `a, |payload| + 2, t, payload, crc8([t] ++ payload)` (`30_encoding.md` R94). -/
def frameBytes (cfg : Config) (addr type : Byte) (payload : List Byte) : List Byte :=
  [addr, BitVec.ofNat 8 (payload.length + 2), type] ++ payload ++ [Machine.crc8 cfg.crcInit (type :: payload)]

/-- `RC(a, [c0, …, c15])` (`30_encoding.md` R94). -/
def rcFrameBytes (cfg : Config) (addr : Byte) (c : ChannelSet) : List Byte :=
  frameBytes cfg addr Machine.typeRcChannelsPacked (Machine.pack c)

/-- `LS(a, [p0, …, p9])` (`30_encoding.md` R94). -/
def lsFrameBytes (cfg : Config) (addr : Byte) (payload : List Byte) : List Byte :=
  frameBytes cfg addr Machine.typeLinkStatistics payload

/-- How an instruction reaches the block: as the bytes of a frame in the stream, or as a transaction of the host. -/
inductive Encoded where
  /-- a frame of the byte stream -/
  | frame (bytes : List Byte)
  /-- a transaction -/
  | transaction (t : Transaction)
  deriving DecidableEq, Repr

/-- The encoding of an instruction (`30_encoding.md` R85, R92, R94). -/
def encode (cfg : Config) : Instr → Encoded
  | .rcChannelsPacked addr payload => .frame (frameBytes cfg addr 0x16#8 payload)
  | .linkStatistics addr payload => .frame (frameBytes cfg addr 0x14#8 payload)
  | .otherType addr type payload => .frame (frameBytes cfg addr type payload)
  | .idle => .transaction (.port false 0#3 0#8)
  | .push b => .transaction (.port false 1#3 b)
  | .mstep => .transaction (.port false 2#3 0#8)
  | .attempt => .transaction (.port false 3#3 0#8)
  | .reservedCmd c => .transaction (.port false (1#1 ++ c) 0#8)
  | .getChannels => .transaction (.query .channels)
  | .getChannelsNorm => .transaction (.query .channelsNorm)
  | .getChannelsUs => .transaction (.query .channelsUs)
  | .getLinkStats => .transaction (.query .linkStats)
  | .getCounters => .transaction (.query .counters)
  | .feed bytes => .transaction (.feed bytes)
  | .drain => .transaction .drain

/-- The decoder on either kind of encoding: a frame counts only where its bytes are the whole list. -/
def decodeEncoded (cfg : Config) : Encoded → Option Instr
  | .frame bytes =>
      match decode cfg bytes with
      | .ok (i, []) => some i
      | .ok (_, _ :: _) => none
      | .error _ => none
  | .transaction t =>
      match decodeTransaction t with
      | .run i => some i
      | .reset => none
      | .resume _ => none

/-! ## The words of `opcode_table.json` -/

/-- The nominal payload size of a type (`30_encoding.md` R81): 22 for 0x16, 10 for 0x14; none for the rest. -/
def nominalPayload (type : Byte) : Nat :=
  if type = Machine.typeRcChannelsPacked then Machine.rcPayloadMin
  else if type = Machine.typeLinkStatistics then Machine.lsPayloadMin
  else 0

/-- A word of the opcode table laid out as the block meets it (log 21): the transaction that runs it and the bytes it finds
at the front of the buffer. The table gives a host command its code in bits 2..0 (`din` would be bits 15..8) and a frame its
type byte in bits 7..0; a frame is sent from address 0xC8 with a payload of zeros of the type's nominal size. -/
def tableFetch (cfg : Config) (nbits w : Nat) : Option (Transaction × List Byte) :=
  if 2 ^ nbits ≤ w then none
  else if w % 2 ^ 8 < 8 then
    if w < 2 ^ 16 then some (.port false (BitVec.ofNat 3 w) (BitVec.ofNat 8 (w / 2 ^ 8)), []) else none
  else if w < 2 ^ 8 then
    some (.port false 2#3 0#8,
      frameBytes cfg 0xC8#8 (BitVec.ofNat 8 w) (List.replicate (nominalPayload (BitVec.ofNat 8 w)) 0#8))
  else none

/-- The instruction the decoder reads from a word of the opcode table (log 21). -/
def decodeTableWord (nbits w : Nat) : Option Instr :=
  match tableFetch Machine.defaultConfig nbits w with
  | none => none
  | some (t, []) => decodeEncoded Machine.defaultConfig (.transaction t)
  | some (_, b :: bytes) => decodeEncoded Machine.defaultConfig (.frame (b :: bytes))

end Sys2Proof
end

