-- ==== Sys2Proof/Machine/State.lean ====
section
/-! DEFINITION. The state as plain data (`10_state.md` R20), the answers of the queries, the reasons a step can stop, and
the state after reset (R30). -/

namespace Sys2Proof.Machine

/-- What `GET_LINK_STATS` returns: `snr` signed, the rest unsigned (`45_host_interface.md` R240). -/
structure LinkStatsReport where
  rssi1 : Nat
  rssi2 : Nat
  linkQuality : Nat
  snr : Int
  activeAntenna : Nat
  rfMode : Nat
  txPower : Nat
  deriving DecidableEq, Repr

/-- The snapshot a query returns (`45_host_interface.md` R243), or the outcomes a `DRAIN` yields (`41_frame_sync.md` R155). -/
inductive Answer where
  /-- `GET_CHANNELS`: 16 integers 0 to 2047 (`45_host_interface.md` R237) -/
  | channels (v : Vector Nat 16)
  /-- `GET_CHANNELS_NORM`: 16 exact rationals (R238) -/
  | channelsNorm (v : Vector Rat 16)
  /-- `GET_CHANNELS_US`: 16 integers (R239) -/
  | channelsUs (v : Vector Int 16)
  /-- `GET_LINK_STATS` (R240) -/
  | linkStats (r : LinkStatsReport)
  /-- `GET_COUNTERS`: `frame_count`, `error_count`, `error_rate` (R241) -/
  | counters (frameCount errorCount : Nat) (errorRate : Rat)
  /-- `DRAIN`: the outcomes before the wait, in order -/
  | events (outcomes : List DecodeOutcome)
  deriving DecidableEq, Repr

/-- The faults of the block: none. "No anomaly stops the block, raises a fault to the caller, or leaves the state
half-changed" (`60_exceptions.md` R270). -/
inductive Fault where
  deriving DecidableEq, Repr

/-- Why the model gives a run no meaning. Each errs toward unprovable (safe). -/
inductive Refusal where
  /-- Raised by an arm of `exec` for an instruction with no meaning yet. Safe. -/
  | notModelled (mnemonic : String)
  /-- Raised by `RESERVED_CMD`: command codes 4 to 7 (`45_host_interface.md` R236). Safe. -/
  | reservedCommand (c : BitVec 2)
  /-- Raised by `PUSH` and `FEED` where a finite `BUF_CAP` would be exceeded (`20_memory.md` R67). Safe. -/
  | bufferFull
  /-- Raised by `MSTEP`, `ATTEMPT`, `DRAIN` at a declared length of 0 or 1 where `SHORT_LEN_POLICY` is `refuse`
  (`92_eei_decisions.md` D6). Safe. -/
  | shortLength
  deriving DecidableEq, Repr

/-- The state. `buf` to `errorCount` are the tuple of `10_state.md` R20, `pos` the ghost of R27; the rest are the model's
own (INVENTORY.md, State). -/
structure State where
  /-- ByteBuffer, front first (R28) -/
  buf : Memory
  /-- ChannelSet (R21) -/
  ch : ChannelSet
  /-- LinkStats (R22) -/
  ls : LinkStats
  /-- `frame_count` (R23) -/
  frameCount : Nat
  /-- `error_count` (R24) -/
  errorCount : Nat
  /-- the count of bytes dropped from the front since reset (R27) -/
  pos : Nat
  /-- MODEL: the open parameters (`00_scope.md` R6); no instruction changes them (R25) -/
  cfg : Config
  /-- MODEL: what the last `MSTEP` or `ATTEMPT` returned (`60_exceptions.md` R271) -/
  outcome : Option DecodeOutcome
  /-- MODEL: the snapshot the last query or `DRAIN` returned -/
  answer : Option Answer
  /-- MODEL: the host transactions to come, oldest first (`20_memory.md` R60) -/
  pending : List Transaction
  /-- MODEL: for each coming attempt of a drain in progress, how many pending transactions take effect before it, the next
  one's first; where it names none the attempt comes at once (`41_frame_sync.md` R155, log 15) -/
  interleave : List Nat
  /-- MODEL: the index the free values of the outcome ports are applied to -/
  freeIdx : Nat
  deriving DecidableEq, Repr

/-- The state after construction with the given parameters (`10_state.md` R30): `ch = CH_INIT`, `ls = LS_INIT`, the buffer
empty, both counters and `pos` 0. Nothing has been returned and nothing is pending. -/
def State.boot (cfg : Config) : State where
  buf := []
  ch := cfg.chInit
  ls := cfg.lsInit
  frameCount := 0
  errorCount := 0
  pos := 0
  cfg := cfg
  outcome := none
  answer := none
  pending := []
  interleave := []
  freeIdx := 0

/-- The machine right after reset, with the default parameters. The values of `ch` and `ls` are a DESIGN CHOICE, since the
spec leaves them open (R30); unsafe, log 6 and 7. Statements about reset are made of `State.boot cfg` for every `cfg`. -/
def State.reset : State := State.boot defaultConfig

end Sys2Proof.Machine
end

