-- ==== Sys2Proof/Machine/Flags.lean ====
section
/-! DEFINITION. The block has no flag register (`10_state.md` R26). What stands in its place: the outcome a decode step
returns, with its code (`60_exceptions.md` R271), and the increment of a counter (`10_state.md` R23, R24). -/

namespace Sys2Proof.Machine

/-- The outcome's code on the 4-bit port (`60_exceptions.md` R271). -/
def DecodeOutcome.code : DecodeOutcome → BitVec 4
  | .waitShort => 0#4
  | .waitIncomplete => 1#4
  | .discardAddr => 2#4
  | .discardLenOver => 3#4
  | .discardLenUnder => 4#4
  | .crcError => 5#4
  | .frameChannels => 6#4
  | .frameLinkStats => 7#4
  | .frameSkipped _ => 8#4
  | .frameOther _ => 9#4

/-- The type byte the outcome records, where it records one (`60_exceptions.md` R271, "info"). -/
def DecodeOutcome.typeByte : DecodeOutcome → Option Byte
  | .frameSkipped t => some t
  | .frameOther t => some t
  | .waitShort => none
  | .waitIncomplete => none
  | .discardAddr => none
  | .discardLenOver => none
  | .discardLenUnder => none
  | .crcError => none
  | .frameChannels => none
  | .frameLinkStats => none

/-- A `WAIT_` outcome. -/
def DecodeOutcome.isWait : DecodeOutcome → Bool
  | .waitShort => true
  | .waitIncomplete => true
  | .discardAddr => false
  | .discardLenOver => false
  | .discardLenUnder => false
  | .crcError => false
  | .frameChannels => false
  | .frameLinkStats => false
  | .frameSkipped _ => false
  | .frameOther _ => false

/-- A `DISCARD_` outcome. -/
def DecodeOutcome.isDiscard : DecodeOutcome → Bool
  | .waitShort => false
  | .waitIncomplete => false
  | .discardAddr => true
  | .discardLenOver => true
  | .discardLenUnder => true
  | .crcError => false
  | .frameChannels => false
  | .frameLinkStats => false
  | .frameSkipped _ => false
  | .frameOther _ => false

/-- A decoded event (`45_host_interface.md` R246): `FRAME_CHANNELS`, `FRAME_LINK_STATS`, `FRAME_OTHER`. -/
def DecodeOutcome.isEvent : DecodeOutcome → Bool
  | .waitShort => false
  | .waitIncomplete => false
  | .discardAddr => false
  | .discardLenOver => false
  | .discardLenUnder => false
  | .crcError => false
  | .frameChannels => true
  | .frameLinkStats => true
  | .frameSkipped _ => false
  | .frameOther _ => true

/-- One more on a counter: exactly 1 where the counter is unbounded (`10_state.md` R23, R24); with `CNT_W` bits it saturates
at `2^CNT_W - 1` and never decreases (`70_reset_and_hazards.md` R319). -/
def counterSucc (cntW : Option Nat) (n : Nat) : Nat :=
  match cntW with
  | none => n + 1
  | some w => if n < 2 ^ w - 1 then n + 1 else n

/-- The last decode step waits. -/
def State.waiting (s : State) : Bool := s.outcome.any DecodeOutcome.isWait

/-- The last decode step discarded a byte. -/
def State.discarded (s : State) : Bool := s.outcome.any DecodeOutcome.isDiscard

end Sys2Proof.Machine
end

