-- ==== Sys2Proof/Machine/Ops.lean ====
section
/-! DEFINITION. The named operations over the buffer, the registers and the counters; and taking an anomaly, the block's
counterpart of an exception, as one shared operation (`60_exceptions.md` R272 to R278, R282). -/

namespace Sys2Proof.Machine

/-- What performing one operation answers. -/
abbrev Result := Host.Outcome State Fault Refusal

/-! ## ByteBuffer (`20_memory.md` R50, R51) -/

/-- The buffer as (offset, byte) pairs. It holds every offset below its length and no other (R50), so the bytes alone, front
first, are its canonical form (log 16). -/
def Memory.cells (m : Memory) : List Host.Cell := m.zipIdx.map fun p => (p.2, p.1)

/-- The canonical form of the pairs: the offsets are 0, 1, …, in rising order, none missing. -/
def Memory.wf (m : Memory) : Bool := (Memory.cells m).map Prod.fst == List.range m.length

/-- `MemRead(i, n)`: the `n` bytes from offset `i`; it changes nothing (R51). -/
def memRead (s : State) (i n : Nat) : List Byte := sub s.buf i n

/-- The byte at an offset; an offset at or past the buffer's length names no byte (R50). -/
def readByte (s : State) (i : Nat) : Option Byte := s.buf[i]?

/-- `BufPush(b)` (R51). -/
def bufPush (b : Byte) (s : State) : State := { s with buf := s.buf ++ [b] }

/-- `BufDrop(n)`: the first `n` bytes leave, the stream position moves on by `n` (R51; `10_state.md` R27). -/
def bufDrop (n : Nat) (s : State) : State := { s with buf := s.buf.drop n, pos := s.pos + n }

/-- A finite `BUF_CAP` has room for one more byte (`20_memory.md` R67). -/
def hasRoom (s : State) : Bool :=
  match s.cfg.bufCap with
  | none => true
  | some cap => decide (s.buf.length < cap)

/-! ## Registers and counters (`10_state.md` R21 to R24) -/

/-- All 16 channel registers together (`43_rc_channels.md` R192). -/
def writeChannels (v : ChannelSet) (s : State) : State := { s with ch := v }

/-- All 7 link-statistics fields together (`44_link_stats.md` R212). -/
def writeLinkStats (l : LinkStats) (s : State) : State := { s with ls := l }

/-- `frame_count <- frame_count + 1` (`42_dispatch.md` R173). -/
def countFrame (s : State) : State := { s with frameCount := counterSucc s.cfg.cntW s.frameCount }

/-- `error_count <- error_count + 1` (`42_dispatch.md` R172). -/
def countError (s : State) : State := { s with errorCount := counterSucc s.cfg.cntW s.errorCount }

/-! ## Returned values and the host's queue -/

/-- `return o`: the decode step ends with outcome `o` (`00_scope.md` R10). -/
def returnOutcome (o : DecodeOutcome) (s : State) : State := { s with outcome := some o }

/-- A query's snapshot (`45_host_interface.md` R243), or a `DRAIN`'s list. -/
def returnAnswer (a : Answer) (s : State) : State := { s with answer := some a }

/-- The front transaction leaves the queue, with a fresh index for the free values of the ports. -/
def takeTransaction (rest : List Transaction) (s : State) : State :=
  { s with pending := rest, freeIdx := s.freeIdx + 1 }

/-- The rest of a `DRAIN` goes back into the queue, behind as many pending transactions as `interleave` says take effect
before its next attempt (`41_frame_sync.md` R155, log 15). -/
def continueDrain (outcomes : List DecodeOutcome) (s : State) : State :=
  { s with
    pending := s.pending.take (s.interleave.headD 0) ++ .drainOn outcomes :: s.pending.drop (s.interleave.headD 0)
    interleave := s.interleave.tail }

/-- `rst`: every element of the block's state takes its reset value (`70_reset_and_hazards.md` R310); the parameters and the
environment's queue stay (log 18). -/
def resetBlock (s : State) : State :=
  { State.boot s.cfg with pending := s.pending, interleave := s.interleave, freeIdx := s.freeIdx }

/-! ## Anomalies -/

/-- The anomalies of `60_exceptions.md` section 3. -/
inductive Anomaly where
  /-- R275 -/
  | shortBuffer
  /-- R276 -/
  | incompleteFrame
  /-- R272 -/
  | syncAddress
  /-- R273, R143 -/
  | syncLengthOver
  /-- R273, R144 -/
  | syncLengthUnder
  /-- R277; the frame has already left the buffer -/
  | crcMismatch
  /-- R278; the frame has already left the buffer and been counted -/
  | payloadTooShort (type : Byte)
  deriving DecidableEq, Repr

/-- `raise <Anomaly>`: the state change of the anomaly, and its outcome (`00_scope.md` R10; `60_exceptions.md` R271 to R278).
Nothing is saved and control goes nowhere (R282); there is nothing to return from (R283). -/
def raiseAnomaly (a : Anomaly) (s : State) : State :=
  match a with
  | .shortBuffer => returnOutcome .waitShort s
  | .incompleteFrame => returnOutcome .waitIncomplete s
  | .syncAddress => returnOutcome .discardAddr (bufDrop 1 s)
  | .syncLengthOver => returnOutcome .discardLenOver (bufDrop 1 s)
  | .syncLengthUnder => returnOutcome .discardLenUnder (bufDrop 1 s)
  | .crcMismatch => returnOutcome .crcError (countError s)
  | .payloadTooShort type => returnOutcome (.frameSkipped type) s

end Sys2Proof.Machine
end

