-- ==== Sys2Proof/Machine/Frames.lean ====
section
/-! DEFINITION. What a CRC-valid frame does: the meanings of the three frame types (`43_rc_channels.md` R190,
`44_link_stats.md` R210, `42_dispatch.md` R176) and the dispatch that reaches them (R175). The frame has already left the
buffer. -/

namespace Sys2Proof.Machine

/-- `RC_CHANNELS_PACKED` (R190): the frame is counted; with at least 22 payload bytes all 16 channels are written (R192,
R194), otherwise the decode is skipped (R191). The address has no other effect (`30_encoding.md` R83). -/
def execRcChannelsPacked (_addr : Byte) (payload : List Byte) (s : State) : Result :=
  if rcPayloadMin ≤ payload.length then
    .next (returnOutcome .frameChannels (writeChannels (unpack payload) (countFrame s)))
  else .next (raiseAnomaly (.payloadTooShort typeRcChannelsPacked) (countFrame s))

/-- `LINK_STATISTICS` (R210): the frame is counted; with at least 10 payload bytes all 7 fields are written (R212), otherwise
the decode is skipped (R211). -/
def execLinkStatistics (_addr : Byte) (payload : List Byte) (s : State) : Result :=
  if lsPayloadMin ≤ payload.length then
    .next (returnOutcome .frameLinkStats (writeLinkStats (lsMap payload) (countFrame s)))
  else .next (raiseAnomaly (.payloadTooShort typeLinkStatistics) (countFrame s))

/-- `OTHER_TYPE` (R176): the frame is counted; nothing else. -/
def execOtherType (_addr type : Byte) (_payload : List Byte) (s : State) : Result :=
  .next (returnOutcome (.frameOther type) (countFrame s))

/-- `DISPATCH(F)` (`42_dispatch.md` R175): the CRC check, then the type byte. -/
def dispatchFrame (f : WireFrame) (s : State) : Result :=
  if f.crcOk s.cfg then
    if f.type = typeRcChannelsPacked then execRcChannelsPacked f.address f.payload s
    else if f.type = typeLinkStatistics then execLinkStatistics f.address f.payload s
    else execOtherType f.address f.type f.payload s
  else .next (raiseAnomaly .crcMismatch s)

end Sys2Proof.Machine
end

