-- ==== Sys2Proof/Machine/HostCommands.lean ====
section
/-! DEFINITION. The host commands other than the two decode operations (`45_host_interface.md` R232, R233, R236). -/

namespace Sys2Proof.Machine

/-- `IDLE` (R232): the state after is the state before. -/
def execIdle (s : State) : Result := .next s

/-- `PUSH b` (R233); with a finite `BUF_CAP` a push into a full buffer is refused (`20_memory.md` R67). -/
def execPush (b : Byte) (s : State) : Result :=
  if hasRoom s then .next (bufPush b s) else .refused .bufferFull

/-- `RESERVED_CMD` (R236): a model refuses a run that issues one; it neither treats it as `IDLE` nor faults the block. -/
def execReservedCmd (c : BitVec 2) (_s : State) : Result := .refused (.reservedCommand c)

end Sys2Proof.Machine
end

