-- ==== Sys2Proof/Machine/Sync.lean ====
section
/-! DEFINITION. The frame synchronizer: one pass, one attempt (`41_frame_sync.md` R147, R148). -/

namespace Sys2Proof.Machine

/-- One pass of steps 1 to 5 (R141 to R147): an anomaly of the front of the buffer, or an extraction followed by the
dispatch of the frame in the same step (R146). Step 3b follows `SHORT_LEN_POLICY` (R144, D6). -/
def syncPass (s : State) : Result :=
  match front s.cfg s.buf with
  | .short => .next (raiseAnomaly .shortBuffer s)
  | .badAddress => .next (raiseAnomaly .syncAddress s)
  | .lengthOver => .next (raiseAnomaly .syncLengthOver s)
  | .lengthUnder =>
      match s.cfg.shortLenPolicy with
      | .discardOne => .next (raiseAnomaly .syncLengthUnder s)
      | .refuse => .refused .shortLength
  | .incomplete => .next (raiseAnomaly .incompleteFrame s)
  | .frame f => dispatchFrame f (bufDrop f.size s)

/-- `MSTEP` (R147). -/
def execMstep (s : State) : Result := syncPass s

/-- The loop of R148: a pass that discards is followed by another, at most `fuel` times. -/
def attemptLoop : Nat → State → Result
  | 0, s => syncPass s
  | fuel + 1, s =>
      match syncPass s with
      | .next t => if t.discarded then attemptLoop fuel t else .next t
      | .fault r => .fault r
      | .refused r => .refused r

/-- `ATTEMPT` (R148). A discarding pass shortens the buffer by a byte, so there are fewer of them than buffered bytes
(R149) and the bound on the loop is never met. -/
def execAttempt (s : State) : Result := attemptLoop s.buf.length s

end Sys2Proof.Machine
end

