-- ==== Sys2Proof/Machine/Pseudo.lean ====
section
/-! DEFINITION. The pseudo-instructions by their expansions (`30_encoding.md` R94); a `DRAIN` one attempt at a time. -/

namespace Sys2Proof.Machine

/-- `FEED b0 … bn`: `PUSH b0`, …, `PUSH bn` in that order (R94; `45_host_interface.md` R234). -/
def execFeed (bytes : List Byte) (s : State) : Result :=
  match bytes with
  | [] => .next s
  | b :: rest =>
      match execPush b s with
      | .next t => execFeed rest t
      | .fault r => .fault r
      | .refused r => .refused r

/-- One attempt of a `DRAIN` whose earlier attempts returned `outcomes` (`41_frame_sync.md` R155). Where it waits the drain is
over and yields the list; otherwise the rest of the drain goes back into the queue, so that a query or a push may come
before its next attempt. -/
def drainAttempt (outcomes : List DecodeOutcome) (s : State) : Result :=
  match execAttempt s with
  | .next t =>
      if t.waiting then .next (returnAnswer (.events outcomes) t)
      else .next (continueDrain (outcomes ++ t.outcome.toList) t)
  | .fault r => .fault r
  | .refused r => .refused r

/-- `DRAIN` (R155): its first attempt, and the rest of it left in the queue. -/
def execDrain (s : State) : Result := drainAttempt [] s

end Sys2Proof.Machine
end

