-- ==== Sys2Proof/Machine/Views.lean ====
section
/-! DEFINITION. The computed views of the query surface (`45_host_interface.md` R238 to R242) and the binary64 rendering of
an exact rational (`92_eei_decisions.md` D17). -/

namespace Sys2Proof.Machine

/-- `norm = (ch - 992) / 819`, the exact rational, not clamped (R238). -/
def normOf (c : Channel) : Rat := mkRat ((c.toNat : Int) - normCenter) normSpan

/-- The quotient `n / d` of integers, `d` positive, rounded as `US_ROUND` says (D16). -/
def roundQuotient (r : UsRound) (n d : Int) : Int :=
  match r with
  | .floor => Int.fdiv n d
  | .truncate => Int.tdiv n d
  | .nearest => Int.fdiv (2 * n + d) (2 * d)

/-- `us = 1000 + floor((ch - 172) * 1000 / 1639)`: the product first, on unbounded integers, not clamped (R239). -/
def usOf (r : UsRound) (c : Channel) : Int :=
  usBase + roundQuotient r (((c.toNat : Int) - usRawLo) * usRange) usRawSpan

/-- `error_rate = error_count / max(1, frame_count)`, an exact rational (R242). -/
def errorRateOf (errorCount frameCount : Nat) : Rat := mkRat errorCount (max 1 frameCount)

/-- The record `GET_LINK_STATS` reports (R240; `10_state.md` R22, R33). -/
def LinkStatsReport.ofStats (l : LinkStats) : LinkStatsReport where
  rssi1 := l.rssi1.toNat
  rssi2 := l.rssi2.toNat
  linkQuality := l.linkQuality.toNat
  snr := signed8 l.snr
  activeAntenna := l.activeAntenna.toNat
  rfMode := l.rfMode.toNat
  txPower := l.txPower.toNat

/-- The consumer's signed view of `rssi_1` (`10_state.md` R33, `44_link_stats.md` R214). -/
def rssi1Signed (l : LinkStats) : Int := signed8 l.rssi1

/-- The consumer's signed view of `rssi_2` (`10_state.md` R33, `44_link_stats.md` R214). -/
def rssi2Signed (l : LinkStats) : Int := signed8 l.rssi2

/-- `n / d` rounded to the nearest natural number, ties to even. -/
def roundHalfEven (n d : Nat) : Nat :=
  if 2 * (n % d) < d then n / d
  else if d < 2 * (n % d) then n / d + 1
  else if n / d % 2 = 0 then n / d
  else n / d + 1

/-- The exponent a nonzero magnitude `m / d` is scaled by: the floor of its base-2 logarithm, and no less than -1022, the
least exponent of a normal binary64 number. -/
def binary64Exponent (m d : Nat) : Int :=
  let e : Int := (m.log2 : Int) - (d.log2 : Int)
  let reached : Bool := if 0 ≤ e then decide (d * 2 ^ e.toNat ≤ m) else decide (d ≤ m * 2 ^ (-e).toNat)
  max (if reached then e else e - 1) (-1022)

/-- The binary64 number nearest a nonzero magnitude `m / d`, ties to even, without its sign bit: the significand scaled to 53
bits, rounded once, below the biased exponent; a carry out of the significand passes into the exponent. Past the largest
finite number it is the infinity. -/
def binary64Magnitude (m d : Nat) : Nat :=
  let e := binary64Exponent m d
  let shift : Int := 52 - e
  let significand : Nat :=
    if 0 ≤ shift then roundHalfEven (m * 2 ^ shift.toNat) d else roundHalfEven m (d * 2 ^ (-shift).toNat)
  min ((e + 1022).toNat * 2 ^ 52 + significand) (0x7FF * 2 ^ 52)

/-- The IEEE 754 binary64 bit pattern nearest the rational `q`, ties to even (R238, R242, D17); 0 is the positive zero.
PRESUMED (`93_implementation_defined.md` G6), log 11. -/
def binary64Of (q : Rat) : BitVec 64 :=
  if q.num = 0 then 0#64
  else BitVec.ofNat 64 ((if q.num < 0 then 2 ^ 63 else 0) + binary64Magnitude q.num.natAbs q.den)

/-- `GET_CHANNELS_NORM` as floating-point numbers (R238). -/
def normBinary64 (c : Channel) : BitVec 64 := binary64Of (normOf c)

/-- `error_rate` as a floating-point number (R242). -/
def errorRateBinary64 (errorCount frameCount : Nat) : BitVec 64 := binary64Of (errorRateOf errorCount frameCount)

end Sys2Proof.Machine
end

