-- ==== Sys2Proof/Machine/Queries.lean ====
section
/-! DEFINITION. The queries (`45_host_interface.md` R237 to R243): each returns a snapshot and changes nothing. -/

namespace Sys2Proof.Machine

/-- `GET_CHANNELS` (R237). -/
def execGetChannels (s : State) : Result := .next (returnAnswer (.channels (s.ch.map BitVec.toNat)) s)

/-- `GET_CHANNELS_NORM` (R238). -/
def execGetChannelsNorm (s : State) : Result := .next (returnAnswer (.channelsNorm (s.ch.map normOf)) s)

/-- `GET_CHANNELS_US` (R239). -/
def execGetChannelsUs (s : State) : Result := .next (returnAnswer (.channelsUs (s.ch.map (usOf s.cfg.usRound))) s)

/-- `GET_LINK_STATS` (R240). -/
def execGetLinkStats (s : State) : Result := .next (returnAnswer (.linkStats (LinkStatsReport.ofStats s.ls)) s)

/-- `GET_COUNTERS` (R241, R242). -/
def execGetCounters (s : State) : Result :=
  .next (returnAnswer (.counters s.frameCount s.errorCount (errorRateOf s.errorCount s.frameCount)) s)

end Sys2Proof.Machine
end

