-- ==== Sys2Proof/Machine/Dispatch.lean ====
section
/-! DEFINITION. One arm per instruction, each a direct call of its meaning. -/

namespace Sys2Proof.Machine

/-- The meaning of an instruction in a state. -/
def exec (i : Instr) (s : State) : Host.Outcome State Fault Refusal :=
  match i with
  | .rcChannelsPacked addr payload => Sys2Proof.Machine.execRcChannelsPacked addr payload s
  | .linkStatistics addr payload => Sys2Proof.Machine.execLinkStatistics addr payload s
  | .otherType addr type payload => Sys2Proof.Machine.execOtherType addr type payload s
  | .idle => Sys2Proof.Machine.execIdle s
  | .push b => Sys2Proof.Machine.execPush b s
  | .mstep => Sys2Proof.Machine.execMstep s
  | .attempt => Sys2Proof.Machine.execAttempt s
  | .reservedCmd c => Sys2Proof.Machine.execReservedCmd c s
  | .getChannels => Sys2Proof.Machine.execGetChannels s
  | .getChannelsNorm => Sys2Proof.Machine.execGetChannelsNorm s
  | .getChannelsUs => Sys2Proof.Machine.execGetChannelsUs s
  | .getLinkStats => Sys2Proof.Machine.execGetLinkStats s
  | .getCounters => Sys2Proof.Machine.execGetCounters s
  | .feed bytes => Sys2Proof.Machine.execFeed bytes s
  | .drain => Sys2Proof.Machine.execDrain s

end Sys2Proof.Machine
end

