-- ==== Sys2Proof/Machine/Ports.lean ====
section
/-! DEFINITION. The output ports (`45_host_interface.md` R231): what a host samples between transactions. -/

namespace Sys2Proof.Machine

/-- The output ports of R231. The normalized view and the error rate have no port. -/
structure Ports where
  /-- `outcome[3:0]` -/
  outcome : BitVec 4
  /-- `outcome_type[7:0]` -/
  outcomeType : BitVec 8
  /-- `ch_raw[0..15]` -/
  chRaw : Vector (BitVec 11) 16
  /-- `ch_us[0..15]` -/
  chUs : Vector (BitVec 12) 16
  lsRssi1 : BitVec 8
  lsRssi2 : BitVec 8
  lsLinkQuality : BitVec 8
  /-- two's complement -/
  lsSnr : BitVec 8
  lsActiveAntenna : BitVec 8
  lsRfMode : BitVec 8
  lsTxPower : BitVec 8
  /-- `CNT_W` bits; unbounded by default -/
  frameCount : Nat
  /-- `CNT_W` bits; unbounded by default -/
  errorCount : Nat
  deriving DecidableEq, Repr

/-- The `outcome` port: the code of the last decode step's outcome (R271); a free value before the first one. -/
def outcomePort (s : State) : BitVec 4 :=
  match s.outcome with
  | none => Config.freeOutcome s.freeIdx
  | some o => o.code

/-- The `outcome_type` port: the frame's type byte with `FRAME_SKIPPED` and `FRAME_OTHER`; otherwise a free value
(`93_implementation_defined.md` U15). -/
def outcomeTypePort (s : State) : BitVec 8 :=
  match s.outcome.bind DecodeOutcome.typeByte with
  | none => Config.freeOutcomeType s.freeIdx
  | some t => t

/-- The outputs in a state (R231). -/
def State.ports (s : State) : Ports where
  outcome := outcomePort s
  outcomeType := outcomeTypePort s
  chRaw := s.ch
  chUs := s.ch.map fun c => BitVec.ofInt 12 (usOf s.cfg.usRound c)
  lsRssi1 := s.ls.rssi1
  lsRssi2 := s.ls.rssi2
  lsLinkQuality := s.ls.linkQuality
  lsSnr := s.ls.snr
  lsActiveAntenna := s.ls.activeAntenna
  lsRfMode := s.ls.rfMode
  lsTxPower := s.ls.txPower
  frameCount := s.frameCount
  errorCount := s.errorCount

end Sys2Proof.Machine
end

