-- ==== Sys2Proof/Machine/Step.lean ====
section
/-! DEFINITION. One step: the front transaction of the host's queue (`20_memory.md` R58, R60); and the placing of a word of
the opcode table where the next step meets it. -/

namespace Sys2Proof.Machine

/-- One transaction, atomic (R58). With none pending the block does nothing (`70_reset_and_hazards.md` R310) and time passes
(`45_host_interface.md` R232). With `rst` asserted the state takes the reset values and no command is accepted (R231). The
rest of a drain in progress is its next attempt (`41_frame_sync.md` R155). -/
def step (s : State) : Host.Outcome State Fault Refusal :=
  match s.pending with
  | [] => .next s
  | t :: rest =>
      match decodeTransaction t with
      | .reset => .next (resetBlock (takeTransaction rest s))
      | .run i => exec i (takeTransaction rest s)
      | .resume outcomes => drainAttempt outcomes (takeTransaction rest s)

/-- A word of the opcode table placed for the next step: its transaction at the front of the queue, and the bytes that
transaction meets at the front of the buffer (log 21). -/
def State.withFetchWord (s : State) (nbits w : Nat) : State :=
  match tableFetch s.cfg nbits w with
  | none => s
  | some (t, bytes) => { s with pending := t :: s.pending, buf := bytes ++ s.buf }

end Sys2Proof.Machine
end

