-- ==== Sys2Proof/Safety.lean ====
section
/-! DEFINITION. The terms claims are stated in: the spec's tuple of a state, quiescence, sequences of operations, and the
invariant every step keeps. -/

namespace Sys2Proof.Machine

/-- The spec's own state: the tuple of `10_state.md` R20, and the ghost `pos` of R27. -/
structure Block where
  buf : Memory
  ch : ChannelSet
  ls : LinkStats
  frameCount : Nat
  errorCount : Nat
  pos : Nat
  deriving DecidableEq, Repr

/-- The spec's own state of a state of the model. -/
def State.block (s : State) : Block := ⟨s.buf, s.ch, s.ls, s.frameCount, s.errorCount, s.pos⟩

/-- A `WAIT_` outcome awaits an `MSTEP` in this state (`41_frame_sync.md` R149). -/
def State.quiescent (s : State) : Bool :=
  match front s.cfg s.buf with
  | .short => true
  | .incomplete => true
  | .badAddress => false
  | .lengthOver => false
  | .lengthUnder => false
  | .frame _ => false

/-- What stands at the front is a sync error (`60_exceptions.md` R272, R273). -/
def isSyncError : Front → Bool
  | .short => false
  | .incomplete => false
  | .badAddress => true
  | .lengthOver => true
  | .lengthUnder => true
  | .frame _ => false

/-- The bytes an operation appends to the buffer. -/
def instrBytes : Instr → List Byte
  | .push b => [b]
  | .feed bytes => bytes
  | .rcChannelsPacked _ _ => []
  | .linkStatistics _ _ => []
  | .otherType _ _ _ => []
  | .idle => []
  | .mstep => []
  | .attempt => []
  | .reservedCmd _ => []
  | .getChannels => []
  | .getChannelsNorm => []
  | .getChannelsUs => []
  | .getLinkStats => []
  | .getCounters => []
  | .drain => []

/-- The stream a sequence of operations pushes. -/
def streamOf (ops : List Instr) : List Byte := ops.flatMap instrBytes

/-- The operations chunking invariance is about: `PUSH`, `MSTEP`, `ATTEMPT`, `IDLE` and the queries (`41_frame_sync.md`
R151). -/
def isChunkOp : Instr → Bool
  | .push _ => true
  | .mstep => true
  | .attempt => true
  | .idle => true
  | .getChannels => true
  | .getChannelsNorm => true
  | .getChannelsUs => true
  | .getLinkStats => true
  | .getCounters => true
  | .rcChannelsPacked _ _ => false
  | .linkStatistics _ _ => false
  | .otherType _ _ _ => false
  | .reservedCmd _ => false
  | .feed _ => false
  | .drain => false

/-- The queries. -/
def isQuery : Instr → Bool
  | .getChannels => true
  | .getChannelsNorm => true
  | .getChannelsUs => true
  | .getLinkStats => true
  | .getCounters => true
  | .push _ => false
  | .mstep => false
  | .attempt => false
  | .idle => false
  | .rcChannelsPacked _ _ => false
  | .linkStatistics _ _ => false
  | .otherType _ _ _ => false
  | .reservedCmd _ => false
  | .feed _ => false
  | .drain => false

/-- The non-waiting, non-discarding outcome an `MSTEP` or `ATTEMPT` has just returned. -/
def loggedOutcome (i : Instr) (t : State) : List DecodeOutcome :=
  if i = .mstep ∨ i = .attempt then t.outcome.toList.filter fun o => !o.isWait && !o.isDiscard else []

/-- A sequence of operations, one after the other (`20_memory.md` R60), with the non-waiting, non-discarding outcomes they
return; none where one of them stops. -/
def execLog : List Instr → State → Option (State × List DecodeOutcome)
  | [], s => some (s, [])
  | i :: rest, s =>
      match exec i s with
      | .next t => (execLog rest t).map fun r => (r.1, loggedOutcome i t ++ r.2)
      | .fault _ => none
      | .refused _ => none

/-- The buffer with bit `k` of the byte at offset `j` flipped. -/
def flipBit (buf : List Byte) (j k : Nat) : List Byte := buf.set j (byteAt buf j ^^^ (1#8 <<< k))

/-- The ranges of the values an answer holds (`45_host_interface.md` R237 to R242; 2144 is reached where `US_ROUND` is
`nearest` only). A `DRAIN` yields no wait and no discard. -/
def Answer.inRange : Answer → Prop
  | .channels v => ∀ k : Fin 16, v[k] ≤ 2047
  | .channelsNorm v => ∀ k : Fin 16, (-992 / 819 : Rat) ≤ v[k] ∧ v[k] ≤ 1055 / 819
  | .channelsUs v => ∀ k : Fin 16, 895 ≤ v[k] ∧ v[k] ≤ 2144
  | .linkStats r =>
      r.rssi1 ≤ 255 ∧ r.rssi2 ≤ 255 ∧ r.linkQuality ≤ 255 ∧ -128 ≤ r.snr ∧ r.snr ≤ 127
        ∧ r.activeAntenna ≤ 255 ∧ r.rfMode ≤ 255 ∧ r.txPower ≤ 255
  | .counters _ _ rate => 0 ≤ rate
  | .events outcomes => ∀ o ∈ outcomes, o.isWait = false ∧ o.isDiscard = false

/-- `FRAME_SKIPPED` names one of the two decoded types and `FRAME_OTHER` any other type (`60_exceptions.md` R271). -/
def DecodeOutcome.typeOk : DecodeOutcome → Prop
  | .frameSkipped t => t = typeRcChannelsPacked ∨ t = typeLinkStatistics
  | .frameOther t => t ≠ typeRcChannelsPacked ∧ t ≠ typeLinkStatistics
  | .waitShort => True
  | .waitIncomplete => True
  | .discardAddr => True
  | .discardLenOver => True
  | .discardLenUnder => True
  | .crcError => True
  | .frameChannels => True
  | .frameLinkStats => True

/-- Steps one after the other, up to the first that stops. -/
def runSteps : Nat → State → Result
  | 0, s => .next s
  | k + 1, s =>
      match step s with
      | .next t => runSteps k t
      | .fault r => .fault r
      | .refused r => .refused r

/-- The number an IEEE 754 binary64 bit pattern stands for; none for an infinity and for what is no number. -/
def binary64Value (b : BitVec 64) : Option Rat :=
  let biased := (b.extractLsb' 52 11).toNat
  let fraction := (b.extractLsb' 0 52).toNat
  let magnitude : Rat :=
    if biased = 0 then (fraction : Rat) / 2 ^ 1074 else ((2 ^ 52 + fraction : Nat) : Rat) * 2 ^ biased / 2 ^ 1075
  if biased = 0x7FF then none else some (if b.getLsbD 63 then -magnitude else magnitude)

/-- What every step keeps. -/
structure State.Inv (s : State) : Prop where
  /-- the parameters meet the spec's constraints (`30_encoding.md` R83, `20_memory.md` R67) -/
  cfgWf : s.cfg.wf = true
  /-- a finite buffer is not overfull (`20_memory.md` R67) -/
  bufWithinCap : ∀ cap, s.cfg.bufCap = some cap → s.buf.length ≤ cap
  /-- a finite counter fits its width (`70_reset_and_hazards.md` R319) -/
  countersFit : ∀ w, s.cfg.cntW = some w → s.frameCount ≤ 2 ^ w - 1 ∧ s.errorCount ≤ 2 ^ w - 1
  /-- the last outcome names the right type byte -/
  outcomeOk : ∀ o, s.outcome = some o → o.typeOk
  /-- the outcomes a drain in progress has collected are no waits and no discards (`41_frame_sync.md` R155) -/
  drainsOk : ∀ os, .drainOn os ∈ s.pending → ∀ o ∈ os, o.isWait = false ∧ o.isDiscard = false
  /-- the last answer is in range -/
  answerOk : ∀ a, s.answer = some a → a.inRange

end Sys2Proof.Machine
end

