-- ==== Sys2Proof/Certificates/Slice0/Obligations.lean ====
section
/-! DEFINITION. The statements for the provers, in the order of `OBLIGATIONS.json`. Each docstring names the rule of the spec
it rests on. -/

open Sys2Proof Sys2Proof.Machine

/-! ## Reset and the step -/

/-- R30, R310, R231 (`rst`): construction gives an empty buffer, zero counters and position, `CH_INIT` and `LS_INIT`, whatever
the parameters are; an asserted `rst` puts the block back there, whatever `cmd` and `din` are. That the parameters and the
transactions to come stay is the model's own choice (log 18), since the spec says nothing of a queue. The values `CH_INIT` and
`LS_INIT` take in `State.reset` are the model's choice (log 6, 7) and are not stated. -/
def Obligations.ResetTakesTheConstructedState : Prop :=
  ∀ cfg : Config,
    (State.boot cfg).block = ⟨[], cfg.chInit, cfg.lsInit, 0, 0, 0⟩ ∧
    ∀ (s : State) (cmd : BitVec 3) (din : Byte) (rest : List Transaction),
      s.cfg = cfg → s.pending = .port true cmd din :: rest →
      ∃ t, step s = .next t ∧ t.block = ⟨[], cfg.chInit, cfg.lsInit, 0, 0, 0⟩ ∧ t.cfg = cfg ∧ t.pending = rest

/-- R58, R60, R310: a step performs the front transaction of the queue: the decoded instruction, or the next attempt of a drain
in progress, in the state whose queue has moved on; with nothing pending nothing changes. The queue, `interleave` and `freeIdx`
are the model's own (log 1, 13, 15), and so is what `rst` leaves of them (log 18). -/
def Obligations.StepRunsTheDecodedTransaction : Prop :=
  ∀ s : State,
    (s.pending = [] → step s = .next s) ∧
    ∀ (t : Transaction) (rest : List Transaction), s.pending = t :: rest →
      (∀ i, decodeTransaction t = .run i →
        step s = exec i { s with pending := rest, freeIdx := s.freeIdx + 1 }) ∧
      (∀ os, decodeTransaction t = .resume os →
        step s = drainAttempt os { s with pending := rest, freeIdx := s.freeIdx + 1 }) ∧
      (decodeTransaction t = .reset →
        step s = .next { State.boot s.cfg with
          pending := rest, interleave := s.interleave, freeIdx := s.freeIdx + 1 })

/-- R146, R173, R174: where the bytes at the front of the buffer decode to a frame instruction, the step of a pending `MSTEP`
is that instruction in the state whose buffer has lost exactly the frame's bytes. -/
def Obligations.StepRunsTheDecodedFrame : Prop :=
  ∀ (s : State) (din : Byte) (rest : List Transaction) (i : Instr) (bytes : List Byte),
    s.pending = .port false 2#3 din :: rest → decode s.cfg s.buf = .ok (i, bytes) →
    step s = exec i { s with
      pending := rest, freeIdx := s.freeIdx + 1,
      buf := bytes, pos := s.pos + (s.buf.length - bytes.length) }

/-! ## Encoding -/

/-- R80, R85, R92: words written out from the spec's encodings decode to the instructions they stand for (frames T1, T5, L2 of
`95_test_vectors.md`, the command codes). The frames decode under the default parameters, so they rest on the presumed
`CRC_INIT` (log 4, D5) and the presumed whitelist (log 3, D4); the command codes are the spec's decision D3. -/
def Obligations.WrittenOutWordsDecode : Prop :=
  decode defaultConfig [0xC8#8, 0x02#8, 0x00#8, 0x00#8] = .ok (.otherType 0xC8#8 0x00#8 [], []) ∧
  decode defaultConfig [0x00#8, 0x04#8, 0x28#8, 0x00#8, 0xEA#8, 0x54#8, 0x77#8]
    = .ok (.otherType 0x00#8 0x28#8 [0x00#8, 0xEA#8], [0x77#8]) ∧
  decode defaultConfig [0xC8#8, 0x02#8, 0x16#8, 0xD3#8] = .ok (.rcChannelsPacked 0xC8#8 [], []) ∧
  decode defaultConfig [0xEA#8, 0x0C#8, 0x14#8, 0xA6#8, 0x9C#8, 0x64#8, 0x80#8, 0x00#8, 0x04#8, 0x03#8, 0xB0#8, 0x63#8,
      0x7F#8, 0xD3#8]
    = .ok (.linkStatistics 0xEA#8 [0xA6#8, 0x9C#8, 0x64#8, 0x80#8, 0x00#8, 0x04#8, 0x03#8, 0xB0#8, 0x63#8, 0x7F#8], []) ∧
  decodeTransaction (.port false 0b000#3 0x5A#8) = .run .idle ∧
  decodeTransaction (.port false 0b001#3 0x5A#8) = .run (.push 0x5A#8) ∧
  decodeTransaction (.port false 0b010#3 0x5A#8) = .run .mstep ∧
  decodeTransaction (.port false 0b011#3 0x5A#8) = .run .attempt ∧
  decodeTransaction (.port false 0b110#3 0x5A#8) = .run (.reservedCmd 0b10#2)

/-- R80 to R88, R92: for every well-formed instruction, under every parameters, decoding its encoding gives it back with every
operand; and a frame is found in front of any further bytes. -/
def Obligations.DecodeOfEncodeIsTheInstruction : Prop :=
  ∀ (cfg : Config) (i : Instr), i.wf cfg = true →
    decodeEncoded cfg (encode cfg i) = some i ∧
    ∀ bytes rest, encode cfg i = .frame bytes → decode cfg (bytes ++ rest) = .ok (i, rest)

/-- R80 to R88: what decodes is well formed, and the bytes it was read from are its encoding followed by the rest: no other
bytes read as the instruction. -/
def Obligations.DecodedBytesAreTheEncoding : Prop :=
  ∀ (cfg : Config) (buf : List Byte) (i : Instr) (rest : List Byte), decode cfg buf = .ok (i, rest) →
    i.wf cfg = true ∧ ∃ bytes, encode cfg i = .frame bytes ∧ buf = bytes ++ rest

/-! ## Invariants -/

/-- The invariant: parameters within the spec's constraints (R83, R67), a finite buffer not overfull (R67), finite counters
within their width (R319), the last outcome naming the right type byte (R271), the last answer in range (R237 to R242), no
wait and no discard among the outcomes of a drain in progress (R155). Every step keeps it, from every state that has it. -/
def Obligations.EveryStepKeepsTheInvariant : Prop :=
  ∀ s t : State, s.Inv → step s = .next t → t.Inv

/-- The invariant holds after construction with any parameters that meet the spec's constraints, and at `State.reset`. -/
def Obligations.ConstructionMeetsTheInvariant : Prop :=
  (∀ cfg : Config, cfg.wf = true → (State.boot cfg).Inv) ∧ State.reset.Inv

/-- From R25 ("fixed at build time, not registers"): no operation and no step changes the parameters, an asserted `rst` included.
That all parameters of R6, the initial values and `US_ROUND` among them, stand in one field of the state that nothing writes is
the model's choice (log 2), and so is that `rst` keeps it (log 18). -/
def Obligations.ParametersNeverChange : Prop :=
  (∀ (i : Instr) (s t : State), exec i s = .next t → t.cfg = s.cfg) ∧
  ∀ s t : State, step s = .next t → t.cfg = s.cfg

/-- R51, R27: an operation appends its bytes at the back and drops some number of bytes from the front, by which the stream
position moves: every byte leaves once, in order, or stays. -/
def Obligations.BytesEnterAtTheBackAndLeaveAtTheFront : Prop :=
  ∀ (i : Instr) (s t : State), exec i s = .next t →
    ∃ n, n ≤ (s.buf ++ instrBytes i).length ∧ t.buf = (s.buf ++ instrBytes i).drop n ∧ t.pos = s.pos + n

/-- R27, R35 (d): after any sequence of operations from construction, the stream pushed is the first `pos` bytes of it,
dropped, followed by the buffer. -/
def Obligations.StreamIsWhatWasDroppedThenTheBuffer : Prop :=
  ∀ (cfg : Config) (ops : List Instr) (t : State) (os : List DecodeOutcome),
    execLog ops (State.boot cfg) = some (t, os) →
    t.pos ≤ (streamOf ops).length ∧ streamOf ops = (streamOf ops).take t.pos ++ t.buf

/-- R23, R24, R35 (b): no operation makes a counter smaller. -/
def Obligations.CountersNeverDecrease : Prop :=
  ∀ (i : Instr) (s t : State), exec i s = .next t → s.frameCount ≤ t.frameCount ∧ s.errorCount ≤ t.errorCount

/-! ## The CRC8 function -/

/-- `40_crc8.md`, the polynomial reading: with the initial value 0 the CRC of a byte list, read as a polynomial over the
two-element field, is the remainder of the list's polynomial times `x^8` by the generator
`x^8 + x^7 + x^6 + x^4 + x^2 + 1`. -/
def Obligations.CrcIsTheRemainderByTheGenerator : Prop :=
  ∀ data : List Byte,
    (data.foldl (fun (acc : Polynomial (ZMod 2)) (b : Byte) =>
        acc * Polynomial.X ^ 8 + ∑ i ∈ Finset.range 8, if b.getLsbD i then Polynomial.X ^ i else 0) 0
      * Polynomial.X ^ 8) %ₘ
      (Polynomial.X ^ 8 + Polynomial.X ^ 7 + Polynomial.X ^ 6 + Polynomial.X ^ 4 + Polynomial.X ^ 2 + 1)
    = ∑ i ∈ Finset.range 8, if (crc8 0x00#8 data).getLsbD i then Polynomial.X ^ i else 0

/-- `40_crc8.md`, linearity, the residue and the table-driven form, each for the initial value 0. -/
def Obligations.CrcIsLinearWithZeroResidue : Prop :=
  (∀ a b : List Byte, a.length = b.length →
    crc8 0x00#8 (List.zipWith (· ^^^ ·) a b) = crc8 0x00#8 a ^^^ crc8 0x00#8 b) ∧
  (∀ d : List Byte, crc8 0x00#8 (d ++ [crc8 0x00#8 d]) = 0x00#8) ∧
  ∀ (d : List Byte) (b : Byte), crc8 0x00#8 (d ++ [b]) = crc8 0x00#8 [crc8 0x00#8 d ^^^ b]

/-- `40_crc8.md`, single-bit error detection, on the machine: flip any one bit of the type, the payload or the CRC byte of a
complete frame whose check passes, and the pass drops the frame and counts an error, not a frame, and writes no register;
under every `CRC_INIT`. -/
def Obligations.SingleBitFlipIsACrcError : Prop :=
  ∀ (s : State) (f : WireFrame) (j k : Nat),
    front s.cfg s.buf = .frame f → f.crcOk s.cfg = true → 2 ≤ j → j < f.size → k < 8 →
    exec .mstep { s with buf := flipBit s.buf j k } = .next { s with
      buf := s.buf.drop f.size, pos := s.pos + f.size,
      errorCount := counterSucc s.cfg.cntW s.errorCount, outcome := some .crcError }

/-! ## The synchronizer -/

/-- R141, R275: with fewer than 4 bytes buffered, whatever they are, `MSTEP` and `ATTEMPT` change nothing and return
`WAIT_SHORT`. -/
def Obligations.ShortBufferWaits : Prop :=
  ∀ s : State, s.buf.length < 4 →
    exec .mstep s = .next { s with outcome := some .waitShort } ∧
    exec .attempt s = .next { s with outcome := some .waitShort }

/-- R142, R272: a front byte outside the whitelist: exactly one byte is dropped; no counter and no register changes. -/
def Obligations.NonAddressIsDiscarded : Prop :=
  ∀ s : State, 4 ≤ s.buf.length → byteAt s.buf 0 ∉ s.cfg.addrWhitelist →
    exec .mstep s = .next { s with buf := s.buf.drop 1, pos := s.pos + 1, outcome := some .discardAddr }

/-- R143: a whitelisted front byte and a length byte above 64: only the address byte is dropped. -/
def Obligations.OverLengthIsDiscarded : Prop :=
  ∀ s : State, 4 ≤ s.buf.length → byteAt s.buf 0 ∈ s.cfg.addrWhitelist → 64 < (byteAt s.buf 1).toNat →
    exec .mstep s = .next { s with buf := s.buf.drop 1, pos := s.pos + 1, outcome := some .discardLenOver }

/-- The spec's decision D6 on a declared length of 0 or 1: the policy `discard_one` drops one byte, the policy `refuse` gives
the run no meaning. -/
def Obligations.UnderLengthFollowsThePolicy : Prop :=
  ∀ s : State, 4 ≤ s.buf.length → byteAt s.buf 0 ∈ s.cfg.addrWhitelist → (byteAt s.buf 1).toNat < 2 →
    (s.cfg.shortLenPolicy = .discardOne →
      exec .mstep s = .next { s with buf := s.buf.drop 1, pos := s.pos + 1, outcome := some .discardLenUnder }) ∧
    (s.cfg.shortLenPolicy = .refuse → exec .mstep s = .refused .shortLength)

/-- R145, R276: a legal header and fewer than `L + 2` bytes: nothing is consumed. -/
def Obligations.IncompleteFrameWaits : Prop :=
  ∀ s : State, 4 ≤ s.buf.length → byteAt s.buf 0 ∈ s.cfg.addrWhitelist →
    2 ≤ (byteAt s.buf 1).toNat → (byteAt s.buf 1).toNat ≤ 64 → s.buf.length < (byteAt s.buf 1).toNat + 2 →
    exec .mstep s = .next { s with outcome := some .waitIncomplete } ∧
    exec .attempt s = .next { s with outcome := some .waitIncomplete }

/-- R172, R277 on a complete candidate frame (R146, R170, R171): where the recomputed CRC differs from the trailing byte, the
frame leaves, `error_count` is incremented, and nothing else changes. -/
def Obligations.CrcMismatchCountsAnError : Prop :=
  ∀ (s : State) (len : Nat) (payload : List Byte),
    len = (byteAt s.buf 1).toNat → payload = (s.buf.drop 3).take (len - 2) →
    4 ≤ s.buf.length → byteAt s.buf 0 ∈ s.cfg.addrWhitelist → 2 ≤ len → len ≤ 64 → len + 2 ≤ s.buf.length →
    crc8 s.cfg.crcInit (byteAt s.buf 2 :: payload) ≠ byteAt s.buf (len + 1) →
    exec .mstep s = .next { s with
      buf := s.buf.drop (len + 2), pos := s.pos + (len + 2),
      errorCount := counterSucc s.cfg.cntW s.errorCount, outcome := some .crcError }

/-- R146, R171, R174: where it agrees, the frame leaves and the pass is the instruction of its whole type byte: 0x16, 0x14, or
any other. -/
def Obligations.CrcMatchRunsTheTypesInstruction : Prop :=
  ∀ (s : State) (len : Nat) (payload : List Byte),
    len = (byteAt s.buf 1).toNat → payload = (s.buf.drop 3).take (len - 2) →
    4 ≤ s.buf.length → byteAt s.buf 0 ∈ s.cfg.addrWhitelist → 2 ≤ len → len ≤ 64 → len + 2 ≤ s.buf.length →
    crc8 s.cfg.crcInit (byteAt s.buf 2 :: payload) = byteAt s.buf (len + 1) →
    (byteAt s.buf 2 = 0x16#8 → exec .mstep s =
      exec (.rcChannelsPacked (byteAt s.buf 0) payload) { s with buf := s.buf.drop (len + 2), pos := s.pos + (len + 2) }) ∧
    (byteAt s.buf 2 = 0x14#8 → exec .mstep s =
      exec (.linkStatistics (byteAt s.buf 0) payload) { s with buf := s.buf.drop (len + 2), pos := s.pos + (len + 2) }) ∧
    (byteAt s.buf 2 ≠ 0x16#8 → byteAt s.buf 2 ≠ 0x14#8 → exec .mstep s =
      exec (.otherType (byteAt s.buf 0) (byteAt s.buf 2) payload)
        { s with buf := s.buf.drop (len + 2), pos := s.pos + (len + 2) })

/-- R270, R271: the decode operations complete on every buffer content and return an outcome, an attempt, and a drain's, never a
discard (under the spec's policy for short lengths, D6; that an attempt loops over discards is D8). -/
def Obligations.DecodeOperationsAlwaysComplete : Prop :=
  ∀ s : State, s.cfg.shortLenPolicy = .discardOne →
    (∃ t o, exec .mstep s = .next t ∧ t.outcome = some o) ∧
    (∃ t o, exec .attempt s = .next t ∧ t.outcome = some o ∧ o.isDiscard = false) ∧
    ∃ t o, exec .drain s = .next t ∧ t.outcome = some o ∧ o.isDiscard = false

/-- R27: a pass moves the read position by exactly one of three amounts: 0 with a wait, 1 with a discard, `L + 2` (4 to 66)
with an extraction. -/
def Obligations.APassAdvancesByZeroOneOrTheFrame : Prop :=
  ∀ s t : State, exec .mstep s = .next t → ∃ o n, t.outcome = some o ∧ t.buf = s.buf.drop n ∧ t.pos = s.pos + n ∧
    (o.isWait = true → n = 0) ∧ (o.isDiscard = true → n = 1) ∧
    (o.isWait = false → o.isDiscard = false →
      n = (byteAt s.buf 1).toNat + 2 ∧ 4 ≤ n ∧ n ≤ 66 ∧ n ≤ s.buf.length)

/-- R175, R272 to R278: a wait or a discard changes no counter; an extraction increments exactly one of the two by exactly 1,
`error_count` with `CRC_ERROR` and `frame_count` with every `FRAME_` outcome. A counter of `CNT_W` bits goes up by 1 below
`2^CNT_W - 1` and stays where it is from there on (R319, D10, log 9). -/
def Obligations.APassCountsExactlyTheExtractedFrame : Prop :=
  ∀ s t : State, exec .mstep s = .next t → ∃ o, t.outcome = some o ∧
    (o.isWait = true ∨ o.isDiscard = true → t.frameCount = s.frameCount ∧ t.errorCount = s.errorCount) ∧
    (o = .crcError → t.frameCount = s.frameCount ∧
      (s.cfg.cntW = none → t.errorCount = s.errorCount + 1) ∧
      ∀ w, s.cfg.cntW = some w →
        (s.errorCount < 2 ^ w - 1 → t.errorCount = s.errorCount + 1) ∧
        (2 ^ w - 1 ≤ s.errorCount → t.errorCount = s.errorCount)) ∧
    (o.isWait = false → o.isDiscard = false → o ≠ .crcError → t.errorCount = s.errorCount ∧
      (s.cfg.cntW = none → t.frameCount = s.frameCount + 1) ∧
      ∀ w, s.cfg.cntW = some w →
        (s.frameCount < 2 ^ w - 1 → t.frameCount = s.frameCount + 1) ∧
        (2 ^ w - 1 ≤ s.frameCount → t.frameCount = s.frameCount))

/-- R148 (the reading of decision D8): an attempt is a pass, and after a pass that discards another attempt. -/
def Obligations.AnAttemptRetriesAfterADiscard : Prop :=
  ∀ s : State,
    (∀ t, exec .mstep s = .next t → t.discarded = true → exec .attempt s = exec .attempt t) ∧
    (∀ t, exec .mstep s = .next t → t.discarded = false → exec .attempt s = .next t) ∧
    ∀ r, exec .mstep s = .refused r → exec .attempt s = .refused r

/-- R148, R149: an attempt is the pass at the first offset that is no sync error, at most `max(0, |buf| - 3)` discards away.
That one attempt skips them all is the spec's decision D8 (log 12), and the policy for short lengths is D6. -/
def Obligations.AnAttemptIsThePassAfterTheSyncErrors : Prop :=
  ∀ s : State, s.cfg.shortLenPolicy = .discardOne →
    ∃ k, k ≤ s.buf.length - 3 ∧
      (∀ j, j < k → isSyncError (front s.cfg (s.buf.drop j)) = true) ∧
      isSyncError (front s.cfg (s.buf.drop k)) = false ∧
      exec .attempt s = exec .mstep { s with buf := s.buf.drop k, pos := s.pos + k }

/-- R155: a drain is a sequence of atomic attempts. Each is one step: one that waits ends the drain, with the list of the
outcomes before it as answer; any other leaves the rest of the drain in the queue, its outcome at the end of the list, behind
as many of the transactions to come as `interleave` says, so that a query or a push comes between two attempts. How the model
holds the interleaving is its own choice (log 15). -/
def Obligations.ADrainRepeatsTheAttempt : Prop :=
  (∀ s t : State, exec .attempt s = .next t →
    (t.waiting = true → exec .drain s = .next { t with answer := some (.events []) }) ∧
    (t.waiting = false → exec .drain s = .next { t with
      pending := s.pending.take (s.interleave.headD 0) ++
        .drainOn t.outcome.toList :: s.pending.drop (s.interleave.headD 0),
      interleave := s.interleave.tail })) ∧
  (∀ (s : State) (r : Refusal), exec .attempt s = .refused r → exec .drain s = .refused r) ∧
  ∀ (s : State) (os : List DecodeOutcome) (rest : List Transaction), s.pending = .drainOn os :: rest →
    (∀ t, exec .attempt { s with pending := rest, freeIdx := s.freeIdx + 1 } = .next t →
      (t.waiting = true → step s = .next { t with answer := some (.events os) }) ∧
      (t.waiting = false → step s = .next { t with
        pending := rest.take (s.interleave.headD 0) ++
          .drainOn (os ++ t.outcome.toList) :: rest.drop (s.interleave.headD 0),
        interleave := s.interleave.tail })) ∧
    ∀ r, exec .attempt { s with pending := rest, freeIdx := s.freeIdx + 1 } = .refused r → step s = .refused r

/-- R155: a drain that nothing comes between ends, after one step for each outcome of its list and one for the wait, in a
quiescent state with that list as answer and the later transactions still to come, each outcome having removed at least 4
bytes (under the spec's policy for short lengths, D6). That one attempt is one step, that an empty `interleave` is a drain
nothing comes between, and that the later transactions stay queued are the model's own choice (log 15); that no attempt ends
with a discarded byte, so that each listed outcome stands for a frame of 4 bytes or more, is the spec's decision D8 (log 12). -/
def Obligations.ADrainEndsQuiescent : Prop :=
  ∀ (s : State) (rest : List Transaction), s.cfg.shortLenPolicy = .discardOne → s.interleave = [] →
    s.pending = .drain :: rest →
    ∃ t os, runSteps (os.length + 1) s = .next t ∧ t.answer = some (.events os) ∧ t.waiting = true ∧
      t.quiescent = true ∧ t.pending = rest ∧ s.pos + 4 * os.length ≤ t.pos

/-- `20_memory.md` section 7: the bytes a wait can leave: at most 3 after `WAIT_SHORT`, 4 to `buf[1] + 1`, at most 65, after
`WAIT_INCOMPLETE`. -/
def Obligations.WhatAWaitLeavesIsBounded : Prop :=
  ∀ (i : Instr) (s t : State), i = .mstep ∨ i = .attempt ∨ i = .drain → exec i s = .next t →
    (t.outcome = some .waitShort → t.buf.length ≤ 3) ∧
    (t.outcome = some .waitIncomplete →
      4 ≤ t.buf.length ∧ t.buf.length ≤ (byteAt t.buf 1).toNat + 1 ∧ (byteAt t.buf 1).toNat + 1 ≤ 65)

/-- `41_frame_sync.md` section 4: in a quiescent state the decode operations change nothing of the block and return the same
wait; and only an operation that pushes a byte can end quiescence. -/
def Obligations.QuiescenceEndsOnlyByAPush : Prop :=
  (∀ s : State, s.quiescent = true → ∃ o, o.isWait = true ∧
    exec .mstep s = .next { s with outcome := some o } ∧ exec .attempt s = .next { s with outcome := some o } ∧
    exec .drain s = .next { s with outcome := some o, answer := some (.events []) }) ∧
  ∀ (i : Instr) (s t : State), s.quiescent = true → instrBytes i = [] → exec i s = .next t → t.quiescent = true

/-- `41_frame_sync.md` section 5, suffix stability: a pass that does not wait is the same pass, outcome and writes, with any
bytes appended to the buffer, and leaves them behind what it leaves. -/
def Obligations.APassIgnoresAppendedBytes : Prop :=
  ∀ (s t : State) (x : List Byte), exec .mstep s = .next t → t.waiting = false →
    exec .mstep { s with buf := s.buf ++ x } = .next { t with buf := t.buf ++ x }

/-- `41_frame_sync.md` section 5, chunking invariance: any two sequences of pushes, passes, attempts, idles and queries that
push the same bytes from the same state and end quiescent leave the same block and return the same non-waiting,
non-discarding outcomes in the same order; under all parameters. -/
def Obligations.ChunkingDoesNotMatter : Prop :=
  ∀ (s t₁ t₂ : State) (ops₁ ops₂ : List Instr) (os₁ os₂ : List DecodeOutcome),
    (∀ i ∈ ops₁, isChunkOp i = true) → (∀ i ∈ ops₂, isChunkOp i = true) →
    streamOf ops₁ = streamOf ops₂ →
    execLog ops₁ s = some (t₁, os₁) → execLog ops₂ s = some (t₂, os₂) →
    t₁.quiescent = true → t₂.quiescent = true →
    t₁.block = t₂.block ∧ os₁ = os₂

/-- `41_frame_sync.md` section 5, noise: a buffer without any whitelisted byte drains to its last 3 bytes, one byte at a time,
and changes no counter and no register. That 3 bytes stay is the spec's resolution C1 (log 25); that a single attempt does it
all is its decision D8 (log 12). -/
def Obligations.NoiseDrainsToThreeBytes : Prop :=
  ∀ s : State, (∀ b ∈ s.buf, b ∉ s.cfg.addrWhitelist) →
    exec .attempt s = .next { s with
      buf := s.buf.drop (s.buf.length - 3), pos := s.pos + (s.buf.length - 3), outcome := some .waitShort } ∧
    exec .drain s = .next { s with
      buf := s.buf.drop (s.buf.length - 3), pos := s.pos + (s.buf.length - 3), outcome := some .waitShort,
      answer := some (.events []) }

/-- R147: the path of a pass, of an attempt and of a drain's attempt is a function of the buffer (and the parameters) alone, and
so is what it writes: of two states that differ in registers, counters and position, the second answers where the first does,
with the same outcome, buffer and written registers, and is refused for the same reason where the first is. -/
def Obligations.TheDecodePathReadsOnlyTheBuffer : Prop :=
  ∀ (i : Instr) (s₁ s₂ : State), i = .mstep ∨ i = .attempt ∨ i = .drain → s₁.buf = s₂.buf → s₁.cfg = s₂.cfg →
    (∀ t₁, exec i s₁ = .next t₁ → ∃ t₂, exec i s₂ = .next t₂ ∧
      t₁.outcome = t₂.outcome ∧ t₁.buf = t₂.buf ∧ t₁.pos + s₂.pos = t₂.pos + s₁.pos ∧
      (t₁.outcome = some .frameChannels → t₁.ch = t₂.ch) ∧ (t₁.outcome = some .frameLinkStats → t₁.ls = t₂.ls)) ∧
    ∀ r, exec i s₁ = .refused r → exec i s₂ = .refused r

/-! ## The frame types -/

/-- R190, R192: an RC frame with at least 22 payload bytes is counted, and channel `k` becomes bits `11k+10` to `11k` of the
little-endian integer of the first 22 bytes, for all 16 together; nothing else changes. The clause that a longer payload's
first 22 bytes count is the spec's decision D14 (R194, log 25); the count and the outcome are R173 and R190. -/
def Obligations.RcFrameWritesAllSixteenChannels : Prop :=
  ∀ (addr : Byte) (payload : List Byte) (s : State), 22 ≤ payload.length →
    ∃ v : ChannelSet,
      (∀ k : Fin 16, v[k].toNat =
        (∑ i ∈ Finset.range 22, (byteAt payload i).toNat * 2 ^ (8 * i)) / 2 ^ (11 * k.val) % 2048) ∧
      exec (.rcChannelsPacked addr payload) s = .next { s with
        frameCount := counterSucc s.cfg.cntW s.frameCount, ch := v, outcome := some .frameChannels }

/-- R191, R278: with a shorter payload the channels keep their values, no error is counted, and the frame stays counted (C7,
D18). -/
def Obligations.ShortRcPayloadIsSkipped : Prop :=
  ∀ (addr : Byte) (payload : List Byte) (s : State), payload.length < 22 →
    exec (.rcChannelsPacked addr payload) s = .next { s with
      frameCount := counterSucc s.cfg.cntW s.frameCount, outcome := some (.frameSkipped 0x16#8) }

/-- `43_rc_channels.md`, the byte-level form: each channel from its two or three bytes, as the table's expressions give it,
agrees with the 176-bit integer. -/
def Obligations.ByteLevelUnpackingAgrees : Prop :=
  ∀ (p : List Byte), 22 ≤ p.length →
    (∀ k : Fin 16, (unpack p)[k] = unpackByteLevel p k.val) ∧
    (unpack p)[0].toNat = ((byteAt p 0).toNat ||| (byteAt p 1).toNat <<< 8) &&& 0x7FF ∧
    (unpack p)[2].toNat =
      ((byteAt p 2).toNat >>> 6 ||| (byteAt p 3).toNat <<< 2 ||| (byteAt p 4).toNat <<< 10) &&& 0x7FF ∧
    (unpack p)[7].toNat = ((byteAt p 9).toNat >>> 5 ||| (byteAt p 10).toNat <<< 3) &&& 0x7FF ∧
    (unpack p)[13].toNat =
      ((byteAt p 17).toNat >>> 7 ||| (byteAt p 18).toNat <<< 1 ||| (byteAt p 19).toNat <<< 9) &&& 0x7FF ∧
    (unpack p)[15].toNat = ((byteAt p 20).toNat >>> 5 ||| (byteAt p 21).toNat <<< 3) &&& 0x7FF

/-- R196, the round trip: unpacking 16 packed values gives them back, and packing the values of 22 bytes gives the bytes
back. -/
def Obligations.PackAndUnpackAreInverse : Prop :=
  (∀ c : ChannelSet, (pack c).length = 22 ∧ unpack (pack c) = c) ∧
  ∀ p : List Byte, p.length = 22 → pack (unpack p) = p

/-- R210, R212: a link-statistics frame with at least 10 payload bytes is counted, and the 7 fields become payload bytes 0 to
6, unchanged, all together; nothing else changes. That a longer payload's first bytes count is the spec's decision D14 (R216),
that the RSSI bytes and the link quality are stored as received its decisions D12 and D13 (log 25). -/
def Obligations.LinkFrameWritesAllSevenFields : Prop :=
  ∀ (addr : Byte) (payload : List Byte) (s : State), 10 ≤ payload.length →
    exec (.linkStatistics addr payload) s = .next { s with
      frameCount := counterSucc s.cfg.cntW s.frameCount,
      ls := { rssi1 := byteAt payload 0, rssi2 := byteAt payload 1, linkQuality := byteAt payload 2,
              snr := byteAt payload 3, activeAntenna := byteAt payload 4, rfMode := byteAt payload 5,
              txPower := byteAt payload 6 },
      outcome := some .frameLinkStats }

/-- R211, R278: with a shorter payload the fields keep their values, no error is counted, and the frame stays counted, which is
the spec's resolution C7 and decision D18 (log 25). -/
def Obligations.ShortLinkPayloadIsSkipped : Prop :=
  ∀ (addr : Byte) (payload : List Byte) (s : State), payload.length < 10 →
    exec (.linkStatistics addr payload) s = .next { s with
      frameCount := counterSucc s.cfg.cntW s.frameCount, outcome := some (.frameSkipped 0x14#8) }

/-- R176: a frame of any other type is counted, whatever its payload; nothing else changes. -/
def Obligations.OtherTypeIsOnlyCounted : Prop :=
  ∀ (addr type : Byte) (payload : List Byte) (s : State),
    exec (.otherType addr type payload) s = .next { s with
      frameCount := counterSucc s.cfg.cntW s.frameCount, outcome := some (.frameOther type) }

/-- `42_dispatch.md`, repetition: a valid frame sent twice in a row is extracted and counted twice, and the second leaves the
channels and the link statistics as the first left them. -/
def Obligations.ARepeatedFrameCountsTwice : Prop :=
  ∀ (s : State) (f : WireFrame) (bytes rest : List Byte), s.cfg.cntW = none →
    s.buf = bytes ++ bytes ++ rest → front s.cfg s.buf = .frame f → bytes.length = f.size → f.crcOk s.cfg = true →
    ∃ t u, exec .mstep s = .next t ∧ exec .mstep t = .next u ∧ u.ch = t.ch ∧ u.ls = t.ls ∧
      t.frameCount = s.frameCount + 1 ∧ u.frameCount = s.frameCount + 2 ∧ u.errorCount = s.errorCount ∧ u.buf = rest

/-- R21, R31, R179: the channels change by no operation but a decoded RC frame: not by any host command, query or frame of
another type; not by a pass, an attempt or an attempt of a drain with another outcome, nor by any operation after which the
last outcome is another. -/
def Obligations.OnlyADecodedRcFrameWritesChannels : Prop :=
  ∀ (i : Instr) (s t : State), exec i s = .next t →
    ((∀ addr payload, i ≠ .rcChannelsPacked addr payload) → i ≠ .mstep → i ≠ .attempt → i ≠ .drain → t.ch = s.ch) ∧
    (t.outcome ≠ some .frameChannels → t.ch = s.ch)

/-- R22, R31, R179: the same of the link statistics and a decoded link-statistics frame. -/
def Obligations.OnlyADecodedLinkFrameWritesLinkStats : Prop :=
  ∀ (i : Instr) (s t : State), exec i s = .next t →
    ((∀ addr payload, i ≠ .linkStatistics addr payload) → i ≠ .mstep → i ≠ .attempt → i ≠ .drain → t.ls = s.ls) ∧
    (t.outcome ≠ some .frameLinkStats → t.ls = s.ls)

/-! ## The host commands and the pseudo-instructions -/

/-- R232: from any state, `IDLE` leaves that state. -/
def Obligations.IdleChangesNothing : Prop :=
  ∀ s : State, exec .idle s = .next s

/-- R233: every byte value is accepted and appended; nothing else changes; no decoding is triggered. The buffer is unbounded,
or finite with room left. -/
def Obligations.PushAppendsTheByte : Prop :=
  ∀ (b : Byte) (s : State), (∀ cap, s.cfg.bufCap = some cap → s.buf.length < cap) →
    exec (.push b) s = .next { s with buf := s.buf ++ [b] }

/-- `20_memory.md` section 7 (decision D9): with a finite `BUF_CAP` a push into a full buffer is refused. -/
def Obligations.PushIntoAFullBufferIsRefused : Prop :=
  ∀ (b : Byte) (s : State) (cap : Nat), s.cfg.bufCap = some cap → cap ≤ s.buf.length →
    exec (.push b) s = .refused .bufferFull

/-- R236: a run that issues one of the codes 4 to 7 is refused, in every state. The codes and their refusal are the spec's
decision D3 (log 23). -/
def Obligations.ReservedCommandsAreRefused : Prop :=
  (∀ (c : BitVec 2) (s : State), exec (.reservedCmd c) s = .refused (.reservedCommand c)) ∧
  ∀ (cmd : BitVec 3) (din : Byte) (s : State) (rest : List Transaction), 4 ≤ cmd.toNat →
    s.pending = .port false cmd din :: rest → ∃ c, step s = .refused (.reservedCommand c)

/-- R234: feeding a list is pushing each byte in order; where the buffer is unbounded, or finite with room for the list, it is
one append; where a finite `BUF_CAP` (D9, R67) has no room for it, it is refused as a whole (log 15). -/
def Obligations.FeedIsOneAppend : Prop :=
  (∀ (b : Byte) (rest : List Byte) (s t : State), exec (.push b) s = .next t →
    exec (.feed (b :: rest)) s = exec (.feed rest) t) ∧
  (∀ (bytes : List Byte) (s : State), (∀ cap, s.cfg.bufCap = some cap → s.buf.length + bytes.length ≤ cap) →
    exec (.feed bytes) s = .next { s with buf := s.buf ++ bytes }) ∧
  ∀ (bytes : List Byte) (s : State) (cap : Nat), s.cfg.bufCap = some cap → bytes ≠ [] →
    cap < s.buf.length + bytes.length → exec (.feed bytes) s = .refused .bufferFull

/-! ## The queries -/

/-- R237: the 16 raw values as unsigned integers 0 to 2047, in index order. -/
def Obligations.GetChannelsReturnsTheRawValues : Prop :=
  ∀ s : State, ∃ v : Vector Nat 16, (∀ k : Fin 16, v[k] = s.ch[k].toNat ∧ v[k] ≤ 2047) ∧
    exec .getChannels s = .next { s with answer := some (.channels v) }

/-- R238: the exact rationals `(ch[k] - 992) / 819`, not clamped. That the exact rational, and no floating-point number, is the
value returned is the spec's decision D17 (log 11). -/
def Obligations.GetChannelsNormReturnsTheExactRationals : Prop :=
  ∀ s : State, ∃ v : Vector Rat 16, (∀ k : Fin 16, v[k] = ((s.ch[k].toNat : Rat) - 992) / 819) ∧
    exec .getChannelsNorm s = .next { s with answer := some (.channelsNorm v) }

/-- R239: the integers `1000 + floor((ch[k] - 172) * 1000 / 1639)`, the division exact; `floor` is the spec's choice (D16) and
here the parameter's. -/
def Obligations.GetChannelsUsReturnsTheFloor : Prop :=
  ∀ s : State, s.cfg.usRound = .floor →
    ∃ v : Vector Int 16, (∀ k : Fin 16, v[k] = 1000 + ⌊((s.ch[k].toNat : Rat) - 172) * 1000 / 1639⌋) ∧
      exec .getChannelsUs s = .next { s with answer := some (.channelsUs v) }

/-- D16, the two other roundings `US_ROUND` can name: `truncate` is the quotient rounded toward zero, `nearest` an integer no
further than a half from the exact quotient; under every parameter the query completes. -/
def Obligations.GetChannelsUsFollowsTheRounding : Prop :=
  ∀ s : State, ∃ v : Vector Int 16, exec .getChannelsUs s = .next { s with answer := some (.channelsUs v) } ∧
    ∀ k : Fin 16,
      (s.cfg.usRound = .truncate → v[k] = 1000 + Int.tdiv (((s.ch[k].toNat : Int) - 172) * 1000) 1639) ∧
      (s.cfg.usRound = .nearest →
        |((v[k] - 1000 : Int) : Rat) - ((s.ch[k].toNat : Rat) - 172) * 1000 / 1639| ≤ 1 / 2)

/-- R240 (and R213, R214): the 7 fields, `snr` in two's complement and the others unsigned. That the RSSI fields are reported
unsigned is the spec's resolution C2 and decision D12 (log 25). -/
def Obligations.GetLinkStatsReturnsTheFields : Prop :=
  ∀ s : State, exec .getLinkStats s = .next { s with
    answer := some (.linkStats {
      rssi1 := s.ls.rssi1.toNat, rssi2 := s.ls.rssi2.toNat, linkQuality := s.ls.linkQuality.toNat,
      snr := s.ls.snr.toInt, activeAntenna := s.ls.activeAntenna.toNat, rfMode := s.ls.rfMode.toNat,
      txPower := s.ls.txPower.toNat }) }

/-- R241, R242: the two counters as they stand and `error_count / max(1, frame_count)`, an exact rational. That it is exact, and
no floating-point number, is the spec's decision D17 (log 11). -/
def Obligations.GetCountersReturnsTheErrorRate : Prop :=
  ∀ s : State, ∃ rate : Rat, rate = (s.errorCount : Rat) / (max 1 s.frameCount : Nat) ∧ 0 ≤ rate ∧
    exec .getCounters s = .next { s with answer := some (.counters s.frameCount s.errorCount rate) }

/-- R318: exactly where the unclamped views leave their nominal ranges, and how far they go (with `floor`, D16). -/
def Obligations.UnclampedViewsLeaveTheirRanges : Prop :=
  ∀ c : Channel,
    (normOf c < -1 ↔ c.toNat < 173) ∧ (1 < normOf c ↔ 1811 < c.toNat) ∧
    (usOf .floor c < 1000 ↔ c.toNat < 172) ∧ (2000 < usOf .floor c ↔ 1812 < c.toNat) ∧
    895 ≤ usOf .floor c ∧ usOf .floor c ≤ 2143

/-- `45_host_interface.md` section 1, the port binding: `ch_raw` and the `ls_` ports carry the registers, `ch_us` fits its 12
bits, and the outcome ports show the last decode step's code and type byte (D2, D15). That the outcome is still shown after
later transactions is the model's choice (log 13), and so are the 12 bits of `ch_us` under every rounding (log 24). -/
def Obligations.PortsShowTheState : Prop :=
  ∀ s : State,
    s.ports.chRaw = s.ch ∧
    (∀ k : Fin 16, (s.ports.chUs[k].toNat : Int) = usOf s.cfg.usRound s.ch[k]) ∧
    s.ports.lsRssi1 = s.ls.rssi1 ∧ s.ports.lsRssi2 = s.ls.rssi2 ∧ s.ports.lsLinkQuality = s.ls.linkQuality ∧
    s.ports.lsSnr = s.ls.snr ∧ s.ports.lsActiveAntenna = s.ls.activeAntenna ∧ s.ports.lsRfMode = s.ls.rfMode ∧
    s.ports.lsTxPower = s.ls.txPower ∧
    s.ports.frameCount = s.frameCount ∧ s.ports.errorCount = s.errorCount ∧
    (∀ o, s.outcome = some o → s.ports.outcome = o.code) ∧
    ∀ t, s.outcome = some (.frameSkipped t) ∨ s.outcome = some (.frameOther t) → s.ports.outcomeType = t

/-- R271, the outcome codes (the spec's decision D15) on the `outcome` port. -/
def Obligations.OutcomeCodesAreTheTable : Prop :=
  ∀ (s : State) (t : Byte), outcomePort { s with outcome := some .waitShort } = 0#4 ∧
    outcomePort { s with outcome := some .waitIncomplete } = 1#4 ∧
    outcomePort { s with outcome := some .discardAddr } = 2#4 ∧
    outcomePort { s with outcome := some .discardLenOver } = 3#4 ∧
    outcomePort { s with outcome := some .discardLenUnder } = 4#4 ∧
    outcomePort { s with outcome := some .crcError } = 5#4 ∧
    outcomePort { s with outcome := some .frameChannels } = 6#4 ∧
    outcomePort { s with outcome := some .frameLinkStats } = 7#4 ∧
    outcomePort { s with outcome := some (.frameSkipped t) } = 8#4 ∧
    outcomePort { s with outcome := some (.frameOther t) } = 9#4

/-- R238, R242, D17, the floating-point views: the binary64 number the model gives for a rational is finite below the magnitude
from which rounding overflows, no finite binary64 number is nearer to the rational, and its last bit is 0 where another is
equally near; from that magnitude on it is the infinity of the rational's sign; and the two views are that number of the two
exact rationals. Before it, the same of the rounding of a quotient to a natural number. That the views are binary64, their
overflow and the sign of zero are presumed (log 11, G6). -/
def Obligations.BinaryRoundingIsNearestEven : Prop :=
  (∀ n d k : Nat, 0 < d →
    |(n : Int) - roundHalfEven n d * d| ≤ |(n : Int) - k * d| ∧
    (|(n : Int) - roundHalfEven n d * d| = |(n : Int) - k * d| → k ≠ roundHalfEven n d → roundHalfEven n d % 2 = 0)) ∧
  (∀ q : Rat, |q| < 2 ^ 1024 - 2 ^ 970 → ∃ v, binary64Value (binary64Of q) = some v ∧
    ∀ b w, binary64Value b = some w →
      |q - v| ≤ |q - w| ∧ (|q - v| = |q - w| → w ≠ v → (binary64Of q).getLsbD 0 = false)) ∧
  (∀ q : Rat, 2 ^ 1024 - 2 ^ 970 ≤ |q| →
    binary64Of q = if q < 0 then 0xFFF0000000000000#64 else 0x7FF0000000000000#64) ∧
  (∀ c : Channel, normBinary64 c = binary64Of (((c.toNat : Rat) - 992) / 819)) ∧
  ∀ errorCount frameCount : Nat,
    errorRateBinary64 errorCount frameCount = binary64Of ((errorCount : Rat) / (max 1 frameCount : Nat))
end

