-- ==== Sys2Proof/Laws/Crc.lean ====
section
/-! SUPPORT. The CRC register over lists. -/

namespace Sys2Proof.Machine

/-- The register after two lists is the register after the second from where the first left it. -/
theorem crcRun_append (acc : Byte) (a b : List Byte) : crcRun acc (a ++ b) = crcRun (crcRun acc a) b := by
  induction a generalizing acc with
  | nil => rfl
  | cons x a ih => exact ih _

/-- One inner iteration is linear. -/
theorem crcShift_xor (a b : Byte) : crcShift (a ^^^ b) = crcShift a ^^^ crcShift b := by
  unfold crcShift
  rw [BitVec.getLsbD_xor, BitVec.shiftLeft_xor_distrib]
  cases a.getLsbD 7 <;> cases b.getLsbD 7
  · rfl
  · exact BitVec.xor_assoc _ _ _
  · simp only [Bool.xor_false, if_true, Bool.false_eq_true, if_false]
    ac_rfl
  · simp only [Bool.xor_self, if_true, Bool.false_eq_true, if_false]
    rw [show a <<< 1 ^^^ crcPoly ^^^ (b <<< 1 ^^^ crcPoly) = a <<< 1 ^^^ b <<< 1 ^^^ (crcPoly ^^^ crcPoly) by ac_rfl,
      BitVec.xor_self, BitVec.xor_zero]

/-- Eight inner iterations are linear. -/
theorem crcShift8_xor (a b : Byte) : crcShift8 (a ^^^ b) = crcShift8 a ^^^ crcShift8 b := by
  simp only [crcShift8, crcShift_xor]

end Sys2Proof.Machine
end

