-- ==== Sys2Proof/Laws/Front.lean ====
section
/-! SUPPORT. Laws of byte lists and of the reading of a buffer's front (`41_frame_sync.md` R147). -/

namespace Sys2Proof

open Machine

/-! ### byte lists -/

theorem byteAt_append_left (l m : List Byte) (i : Nat) (h : i < l.length) : byteAt (l ++ m) i = byteAt l i := by
  simp [byteAt, List.getD_eq_getElem?_getD, List.getElem?_append_left h]

theorem byteAt_take (l : List Byte) (n i : Nat) (h : i < n) : byteAt (l.take n) i = byteAt l i := by
  simp [byteAt, List.getD_eq_getElem?_getD, h]

theorem byteAt_drop (l : List Byte) (n i : Nat) : byteAt (l.drop n) i = byteAt l (n + i) := by
  simp [byteAt, List.getD_eq_getElem?_getD]

/-- A slice of the first bytes depends on the first bytes only. -/
theorem sub_take (l : List Byte) (n a k : Nat) (h : a + k ≤ n) : sub (l.take n) a k = sub l a k := by
  simp only [sub, List.drop_take, List.take_take]
  congr 1
  omega

theorem length_sub (l : List Byte) (a k : Nat) (h : a + k ≤ l.length) : (sub l a k).length = k := by
  simp only [sub, List.length_take, List.length_drop]; omega

/-! ### the front of a buffer -/

/-- The parts of the candidate frame, read at their offsets in the buffer itself (`42_dispatch.md` R170). -/
theorem ofBytes_sub (buf : List Byte) (h : 2 ≤ (byteAt buf 1).toNat) :
    WireFrame.ofBytes (sub buf 0 ((byteAt buf 1).toNat + hdrLen)) =
      ⟨byteAt buf 0, byteAt buf 1, byteAt buf 2, sub buf 3 ((byteAt buf 1).toNat - 2),
        byteAt buf ((byteAt buf 1).toNat + 1)⟩ := by
  have hs : sub buf 0 ((byteAt buf 1).toNat + hdrLen) = buf.take ((byteAt buf 1).toNat + 2) := by simp [sub, hdrLen]
  rw [hs]
  generalize hL : (byteAt buf 1).toNat = len at h
  have h0 := byteAt_take buf (len + 2) 0 (by omega)
  have h1 := byteAt_take buf (len + 2) 1 (by omega)
  have h2 := byteAt_take buf (len + 2) 2 (by omega)
  have h3 := byteAt_take buf (len + 2) (len + 1) (by omega)
  have h4 := sub_take buf (len + 2) 3 (len - 2) (by omega)
  simp only [WireFrame.ofBytes, h0, h1, hL, h2, h3, h4]

/-- The tests of R147 in their order (`60_exceptions.md` R281), each constant in figures. -/
theorem front_eq (cfg : Config) (buf : List Byte) :
    front cfg buf =
      if buf.length < 4 then .short
      else if byteAt buf 0 ∉ cfg.addrWhitelist then .badAddress
      else if 64 < (byteAt buf 1).toNat then .lengthOver
      else if (byteAt buf 1).toNat < 2 then .lengthUnder
      else if buf.length < (byteAt buf 1).toNat + 2 then .incomplete
      else .frame (WireFrame.ofBytes (sub buf 0 ((byteAt buf 1).toNat + hdrLen))) := rfl

theorem front_short (cfg : Config) (buf : List Byte) : front cfg buf = .short ↔ buf.length < 4 := by
  rw [front_eq]
  repeat' split
  all_goals simp_all

theorem front_badAddress (cfg : Config) (buf : List Byte) :
    front cfg buf = .badAddress ↔ 4 ≤ buf.length ∧ byteAt buf 0 ∉ cfg.addrWhitelist := by
  rw [front_eq]
  repeat' split
  all_goals simp_all

theorem front_lengthOver (cfg : Config) (buf : List Byte) :
    front cfg buf = .lengthOver ↔
      4 ≤ buf.length ∧ byteAt buf 0 ∈ cfg.addrWhitelist ∧ 64 < (byteAt buf 1).toNat := by
  rw [front_eq]
  repeat' split
  all_goals simp_all

theorem front_lengthUnder (cfg : Config) (buf : List Byte) :
    front cfg buf = .lengthUnder ↔
      4 ≤ buf.length ∧ byteAt buf 0 ∈ cfg.addrWhitelist ∧ (byteAt buf 1).toNat < 2 := by
  rw [front_eq]
  repeat' split
  all_goals simp_all
  all_goals omega

theorem front_incomplete (cfg : Config) (buf : List Byte) :
    front cfg buf = .incomplete ↔
      4 ≤ buf.length ∧ byteAt buf 0 ∈ cfg.addrWhitelist ∧ 2 ≤ (byteAt buf 1).toNat ∧ (byteAt buf 1).toNat ≤ 64 ∧
        buf.length < (byteAt buf 1).toNat + 2 := by
  rw [front_eq]
  repeat' split
  all_goals simp_all
  all_goals omega

theorem front_frame (cfg : Config) (buf : List Byte) (f : WireFrame) :
    front cfg buf = .frame f ↔
      4 ≤ buf.length ∧ byteAt buf 0 ∈ cfg.addrWhitelist ∧ 2 ≤ (byteAt buf 1).toNat ∧ (byteAt buf 1).toNat ≤ 64 ∧
        (byteAt buf 1).toNat + 2 ≤ buf.length ∧
        f = ⟨byteAt buf 0, byteAt buf 1, byteAt buf 2, sub buf 3 ((byteAt buf 1).toNat - 2),
              byteAt buf ((byteAt buf 1).toNat + 1)⟩ := by
  by_cases h : 2 ≤ (byteAt buf 1).toNat
  · rw [front_eq, ofBytes_sub buf h]
    generalize (⟨byteAt buf 0, byteAt buf 1, byteAt buf 2, sub buf 3 ((byteAt buf 1).toNat - 2),
      byteAt buf ((byteAt buf 1).toNat + 1)⟩ : WireFrame) = g
    repeat' split
    all_goals simp_all
    all_goals first | omega | exact eq_comm
  · rw [front_eq]
    repeat' split
    all_goals simp_all

/-- A candidate frame's size is the declared length plus 2, 4 to 66, and the buffer holds it (`30_encoding.md` R81). -/
theorem front_frame_size {cfg : Config} {buf : List Byte} {f : WireFrame} (h : front cfg buf = .frame f) :
    f.size = (byteAt buf 1).toNat + 2 ∧ 4 ≤ f.size ∧ f.size ≤ 66 ∧ f.size ≤ buf.length := by
  obtain ⟨_, _, h2, h64, hlen, rfl⟩ := (front_frame cfg buf f).mp h
  simp only [WireFrame.size, hdrLen, true_and]
  omega

/-- The front of a buffer depends on no byte behind it: bytes appended to a buffer that does not wait change nothing. -/
theorem front_append (cfg : Config) (buf x : List Byte) (hs : front cfg buf ≠ .short) (hi : front cfg buf ≠ .incomplete) :
    front cfg (buf ++ x) = front cfg buf := by
  have h4 : ¬ buf.length < 4 := fun h => hs ((front_short cfg buf).mpr h)
  have e0 := byteAt_append_left buf x 0 (by omega)
  have e1 := byteAt_append_left buf x 1 (by omega)
  by_cases ha : byteAt buf 0 ∈ cfg.addrWhitelist
  · by_cases ho : 64 < (byteAt buf 1).toNat
    · rw [(front_lengthOver cfg buf).mpr ⟨by omega, ha, ho⟩, front_lengthOver, e0, e1]
      exact ⟨by simp; omega, ha, ho⟩
    · by_cases hu : (byteAt buf 1).toNat < 2
      · rw [(front_lengthUnder cfg buf).mpr ⟨by omega, ha, hu⟩, front_lengthUnder, e0, e1]
        exact ⟨by simp; omega, ha, hu⟩
      · have hc : ¬ buf.length < (byteAt buf 1).toNat + 2 := fun h =>
          hi ((front_incomplete cfg buf).mpr ⟨by omega, ha, by omega, by omega, h⟩)
        rw [(front_frame cfg buf _).mpr ⟨by omega, ha, by omega, by omega, by omega, rfl⟩, front_frame, e0, e1]
        refine ⟨by simp; omega, ha, by omega, by omega, by simp; omega, ?_⟩
        rw [byteAt_append_left buf x 2 (by omega), byteAt_append_left buf x ((byteAt buf 1).toNat + 1) (by omega)]
        congr 1
        simp only [sub]
        rw [List.drop_append_of_le_length (by omega), List.take_append_of_le_length (by simp; omega)]
  · rw [(front_badAddress cfg buf).mpr ⟨by omega, ha⟩, front_badAddress, e0]
    exact ⟨by simp; omega, ha⟩

/-- The size of a frame built of a payload of at most 62 bytes (`30_encoding.md` R81). -/
theorem length_frameBytes (cfg : Config) (addr type : Byte) (payload : List Byte) :
    (frameBytes cfg addr type payload).length = payload.length + 4 := by
  simp [frameBytes]

end Sys2Proof
end

