-- ==== Sys2Proof/Laws/State.lean ====
section
/-! SUPPORT. What each named operation leaves in each field of the state, so that no proof unfolds a record update. -/

namespace Sys2Proof.Machine

/-! ### bufPush -/

@[simp] theorem bufPush_buf (b : Byte) (s : State) : (bufPush b s).buf = s.buf ++ [b] := rfl
@[simp] theorem bufPush_ch (b : Byte) (s : State) : (bufPush b s).ch = s.ch := rfl
@[simp] theorem bufPush_ls (b : Byte) (s : State) : (bufPush b s).ls = s.ls := rfl
@[simp] theorem bufPush_frameCount (b : Byte) (s : State) : (bufPush b s).frameCount = s.frameCount := rfl
@[simp] theorem bufPush_errorCount (b : Byte) (s : State) : (bufPush b s).errorCount = s.errorCount := rfl
@[simp] theorem bufPush_pos (b : Byte) (s : State) : (bufPush b s).pos = s.pos := rfl
@[simp] theorem bufPush_cfg (b : Byte) (s : State) : (bufPush b s).cfg = s.cfg := rfl
@[simp] theorem bufPush_outcome (b : Byte) (s : State) : (bufPush b s).outcome = s.outcome := rfl
@[simp] theorem bufPush_answer (b : Byte) (s : State) : (bufPush b s).answer = s.answer := rfl
@[simp] theorem bufPush_pending (b : Byte) (s : State) : (bufPush b s).pending = s.pending := rfl
@[simp] theorem bufPush_interleave (b : Byte) (s : State) : (bufPush b s).interleave = s.interleave := rfl
@[simp] theorem bufPush_freeIdx (b : Byte) (s : State) : (bufPush b s).freeIdx = s.freeIdx := rfl

/-! ### bufDrop -/

@[simp] theorem bufDrop_buf (n : Nat) (s : State) : (bufDrop n s).buf = s.buf.drop n := rfl
@[simp] theorem bufDrop_ch (n : Nat) (s : State) : (bufDrop n s).ch = s.ch := rfl
@[simp] theorem bufDrop_ls (n : Nat) (s : State) : (bufDrop n s).ls = s.ls := rfl
@[simp] theorem bufDrop_frameCount (n : Nat) (s : State) : (bufDrop n s).frameCount = s.frameCount := rfl
@[simp] theorem bufDrop_errorCount (n : Nat) (s : State) : (bufDrop n s).errorCount = s.errorCount := rfl
@[simp] theorem bufDrop_pos (n : Nat) (s : State) : (bufDrop n s).pos = s.pos + n := rfl
@[simp] theorem bufDrop_cfg (n : Nat) (s : State) : (bufDrop n s).cfg = s.cfg := rfl
@[simp] theorem bufDrop_outcome (n : Nat) (s : State) : (bufDrop n s).outcome = s.outcome := rfl
@[simp] theorem bufDrop_answer (n : Nat) (s : State) : (bufDrop n s).answer = s.answer := rfl
@[simp] theorem bufDrop_pending (n : Nat) (s : State) : (bufDrop n s).pending = s.pending := rfl
@[simp] theorem bufDrop_interleave (n : Nat) (s : State) : (bufDrop n s).interleave = s.interleave := rfl
@[simp] theorem bufDrop_freeIdx (n : Nat) (s : State) : (bufDrop n s).freeIdx = s.freeIdx := rfl

/-! ### writeChannels -/

@[simp] theorem writeChannels_buf (v : ChannelSet) (s : State) : (writeChannels v s).buf = s.buf := rfl
@[simp] theorem writeChannels_ch (v : ChannelSet) (s : State) : (writeChannels v s).ch = v := rfl
@[simp] theorem writeChannels_ls (v : ChannelSet) (s : State) : (writeChannels v s).ls = s.ls := rfl
@[simp] theorem writeChannels_frameCount (v : ChannelSet) (s : State) : (writeChannels v s).frameCount = s.frameCount := rfl
@[simp] theorem writeChannels_errorCount (v : ChannelSet) (s : State) : (writeChannels v s).errorCount = s.errorCount := rfl
@[simp] theorem writeChannels_pos (v : ChannelSet) (s : State) : (writeChannels v s).pos = s.pos := rfl
@[simp] theorem writeChannels_cfg (v : ChannelSet) (s : State) : (writeChannels v s).cfg = s.cfg := rfl
@[simp] theorem writeChannels_outcome (v : ChannelSet) (s : State) : (writeChannels v s).outcome = s.outcome := rfl
@[simp] theorem writeChannels_answer (v : ChannelSet) (s : State) : (writeChannels v s).answer = s.answer := rfl
@[simp] theorem writeChannels_pending (v : ChannelSet) (s : State) : (writeChannels v s).pending = s.pending := rfl
@[simp] theorem writeChannels_interleave (v : ChannelSet) (s : State) : (writeChannels v s).interleave = s.interleave := rfl
@[simp] theorem writeChannels_freeIdx (v : ChannelSet) (s : State) : (writeChannels v s).freeIdx = s.freeIdx := rfl

/-! ### writeLinkStats -/

@[simp] theorem writeLinkStats_buf (l : LinkStats) (s : State) : (writeLinkStats l s).buf = s.buf := rfl
@[simp] theorem writeLinkStats_ch (l : LinkStats) (s : State) : (writeLinkStats l s).ch = s.ch := rfl
@[simp] theorem writeLinkStats_ls (l : LinkStats) (s : State) : (writeLinkStats l s).ls = l := rfl
@[simp] theorem writeLinkStats_frameCount (l : LinkStats) (s : State) : (writeLinkStats l s).frameCount = s.frameCount := rfl
@[simp] theorem writeLinkStats_errorCount (l : LinkStats) (s : State) : (writeLinkStats l s).errorCount = s.errorCount := rfl
@[simp] theorem writeLinkStats_pos (l : LinkStats) (s : State) : (writeLinkStats l s).pos = s.pos := rfl
@[simp] theorem writeLinkStats_cfg (l : LinkStats) (s : State) : (writeLinkStats l s).cfg = s.cfg := rfl
@[simp] theorem writeLinkStats_outcome (l : LinkStats) (s : State) : (writeLinkStats l s).outcome = s.outcome := rfl
@[simp] theorem writeLinkStats_answer (l : LinkStats) (s : State) : (writeLinkStats l s).answer = s.answer := rfl
@[simp] theorem writeLinkStats_pending (l : LinkStats) (s : State) : (writeLinkStats l s).pending = s.pending := rfl
@[simp] theorem writeLinkStats_interleave (l : LinkStats) (s : State) : (writeLinkStats l s).interleave = s.interleave := rfl
@[simp] theorem writeLinkStats_freeIdx (l : LinkStats) (s : State) : (writeLinkStats l s).freeIdx = s.freeIdx := rfl

/-! ### countFrame -/

@[simp] theorem countFrame_buf (s : State) : (countFrame s).buf = s.buf := rfl
@[simp] theorem countFrame_ch (s : State) : (countFrame s).ch = s.ch := rfl
@[simp] theorem countFrame_ls (s : State) : (countFrame s).ls = s.ls := rfl
@[simp] theorem countFrame_frameCount (s : State) : (countFrame s).frameCount = counterSucc s.cfg.cntW s.frameCount := rfl
@[simp] theorem countFrame_errorCount (s : State) : (countFrame s).errorCount = s.errorCount := rfl
@[simp] theorem countFrame_pos (s : State) : (countFrame s).pos = s.pos := rfl
@[simp] theorem countFrame_cfg (s : State) : (countFrame s).cfg = s.cfg := rfl
@[simp] theorem countFrame_outcome (s : State) : (countFrame s).outcome = s.outcome := rfl
@[simp] theorem countFrame_answer (s : State) : (countFrame s).answer = s.answer := rfl
@[simp] theorem countFrame_pending (s : State) : (countFrame s).pending = s.pending := rfl
@[simp] theorem countFrame_interleave (s : State) : (countFrame s).interleave = s.interleave := rfl
@[simp] theorem countFrame_freeIdx (s : State) : (countFrame s).freeIdx = s.freeIdx := rfl

/-! ### countError -/

@[simp] theorem countError_buf (s : State) : (countError s).buf = s.buf := rfl
@[simp] theorem countError_ch (s : State) : (countError s).ch = s.ch := rfl
@[simp] theorem countError_ls (s : State) : (countError s).ls = s.ls := rfl
@[simp] theorem countError_frameCount (s : State) : (countError s).frameCount = s.frameCount := rfl
@[simp] theorem countError_errorCount (s : State) : (countError s).errorCount = counterSucc s.cfg.cntW s.errorCount := rfl
@[simp] theorem countError_pos (s : State) : (countError s).pos = s.pos := rfl
@[simp] theorem countError_cfg (s : State) : (countError s).cfg = s.cfg := rfl
@[simp] theorem countError_outcome (s : State) : (countError s).outcome = s.outcome := rfl
@[simp] theorem countError_answer (s : State) : (countError s).answer = s.answer := rfl
@[simp] theorem countError_pending (s : State) : (countError s).pending = s.pending := rfl
@[simp] theorem countError_interleave (s : State) : (countError s).interleave = s.interleave := rfl
@[simp] theorem countError_freeIdx (s : State) : (countError s).freeIdx = s.freeIdx := rfl

/-! ### returnOutcome -/

@[simp] theorem returnOutcome_buf (o : DecodeOutcome) (s : State) : (returnOutcome o s).buf = s.buf := rfl
@[simp] theorem returnOutcome_ch (o : DecodeOutcome) (s : State) : (returnOutcome o s).ch = s.ch := rfl
@[simp] theorem returnOutcome_ls (o : DecodeOutcome) (s : State) : (returnOutcome o s).ls = s.ls := rfl
@[simp] theorem returnOutcome_frameCount (o : DecodeOutcome) (s : State) : (returnOutcome o s).frameCount = s.frameCount := rfl
@[simp] theorem returnOutcome_errorCount (o : DecodeOutcome) (s : State) : (returnOutcome o s).errorCount = s.errorCount := rfl
@[simp] theorem returnOutcome_pos (o : DecodeOutcome) (s : State) : (returnOutcome o s).pos = s.pos := rfl
@[simp] theorem returnOutcome_cfg (o : DecodeOutcome) (s : State) : (returnOutcome o s).cfg = s.cfg := rfl
@[simp] theorem returnOutcome_outcome (o : DecodeOutcome) (s : State) : (returnOutcome o s).outcome = some o := rfl
@[simp] theorem returnOutcome_answer (o : DecodeOutcome) (s : State) : (returnOutcome o s).answer = s.answer := rfl
@[simp] theorem returnOutcome_pending (o : DecodeOutcome) (s : State) : (returnOutcome o s).pending = s.pending := rfl
@[simp] theorem returnOutcome_interleave (o : DecodeOutcome) (s : State) : (returnOutcome o s).interleave = s.interleave := rfl
@[simp] theorem returnOutcome_freeIdx (o : DecodeOutcome) (s : State) : (returnOutcome o s).freeIdx = s.freeIdx := rfl

/-! ### returnAnswer -/

@[simp] theorem returnAnswer_buf (a : Answer) (s : State) : (returnAnswer a s).buf = s.buf := rfl
@[simp] theorem returnAnswer_ch (a : Answer) (s : State) : (returnAnswer a s).ch = s.ch := rfl
@[simp] theorem returnAnswer_ls (a : Answer) (s : State) : (returnAnswer a s).ls = s.ls := rfl
@[simp] theorem returnAnswer_frameCount (a : Answer) (s : State) : (returnAnswer a s).frameCount = s.frameCount := rfl
@[simp] theorem returnAnswer_errorCount (a : Answer) (s : State) : (returnAnswer a s).errorCount = s.errorCount := rfl
@[simp] theorem returnAnswer_pos (a : Answer) (s : State) : (returnAnswer a s).pos = s.pos := rfl
@[simp] theorem returnAnswer_cfg (a : Answer) (s : State) : (returnAnswer a s).cfg = s.cfg := rfl
@[simp] theorem returnAnswer_outcome (a : Answer) (s : State) : (returnAnswer a s).outcome = s.outcome := rfl
@[simp] theorem returnAnswer_answer (a : Answer) (s : State) : (returnAnswer a s).answer = some a := rfl
@[simp] theorem returnAnswer_pending (a : Answer) (s : State) : (returnAnswer a s).pending = s.pending := rfl
@[simp] theorem returnAnswer_interleave (a : Answer) (s : State) : (returnAnswer a s).interleave = s.interleave := rfl
@[simp] theorem returnAnswer_freeIdx (a : Answer) (s : State) : (returnAnswer a s).freeIdx = s.freeIdx := rfl

/-! ### takeTransaction -/

@[simp] theorem takeTransaction_buf (rest : List Transaction) (s : State) : (takeTransaction rest s).buf = s.buf := rfl
@[simp] theorem takeTransaction_ch (rest : List Transaction) (s : State) : (takeTransaction rest s).ch = s.ch := rfl
@[simp] theorem takeTransaction_ls (rest : List Transaction) (s : State) : (takeTransaction rest s).ls = s.ls := rfl
@[simp] theorem takeTransaction_frameCount (rest : List Transaction) (s : State) : (takeTransaction rest s).frameCount = s.frameCount := rfl
@[simp] theorem takeTransaction_errorCount (rest : List Transaction) (s : State) : (takeTransaction rest s).errorCount = s.errorCount := rfl
@[simp] theorem takeTransaction_pos (rest : List Transaction) (s : State) : (takeTransaction rest s).pos = s.pos := rfl
@[simp] theorem takeTransaction_cfg (rest : List Transaction) (s : State) : (takeTransaction rest s).cfg = s.cfg := rfl
@[simp] theorem takeTransaction_outcome (rest : List Transaction) (s : State) : (takeTransaction rest s).outcome = s.outcome := rfl
@[simp] theorem takeTransaction_answer (rest : List Transaction) (s : State) : (takeTransaction rest s).answer = s.answer := rfl
@[simp] theorem takeTransaction_pending (rest : List Transaction) (s : State) : (takeTransaction rest s).pending = rest := rfl
@[simp] theorem takeTransaction_interleave (rest : List Transaction) (s : State) : (takeTransaction rest s).interleave = s.interleave := rfl
@[simp] theorem takeTransaction_freeIdx (rest : List Transaction) (s : State) : (takeTransaction rest s).freeIdx = s.freeIdx + 1 := rfl

/-! ### continueDrain -/

@[simp] theorem continueDrain_buf (os : List DecodeOutcome) (s : State) : (continueDrain os s).buf = s.buf := rfl
@[simp] theorem continueDrain_ch (os : List DecodeOutcome) (s : State) : (continueDrain os s).ch = s.ch := rfl
@[simp] theorem continueDrain_ls (os : List DecodeOutcome) (s : State) : (continueDrain os s).ls = s.ls := rfl
@[simp] theorem continueDrain_frameCount (os : List DecodeOutcome) (s : State) : (continueDrain os s).frameCount = s.frameCount := rfl
@[simp] theorem continueDrain_errorCount (os : List DecodeOutcome) (s : State) : (continueDrain os s).errorCount = s.errorCount := rfl
@[simp] theorem continueDrain_pos (os : List DecodeOutcome) (s : State) : (continueDrain os s).pos = s.pos := rfl
@[simp] theorem continueDrain_cfg (os : List DecodeOutcome) (s : State) : (continueDrain os s).cfg = s.cfg := rfl
@[simp] theorem continueDrain_outcome (os : List DecodeOutcome) (s : State) : (continueDrain os s).outcome = s.outcome := rfl
@[simp] theorem continueDrain_answer (os : List DecodeOutcome) (s : State) : (continueDrain os s).answer = s.answer := rfl
@[simp] theorem continueDrain_pending (os : List DecodeOutcome) (s : State) : (continueDrain os s).pending =
    s.pending.take (s.interleave.headD 0) ++ .drainOn os :: s.pending.drop (s.interleave.headD 0) := rfl
@[simp] theorem continueDrain_interleave (os : List DecodeOutcome) (s : State) :
    (continueDrain os s).interleave = s.interleave.tail := rfl
@[simp] theorem continueDrain_freeIdx (os : List DecodeOutcome) (s : State) : (continueDrain os s).freeIdx = s.freeIdx := rfl

/-! ### resetBlock -/

@[simp] theorem resetBlock_buf (s : State) : (resetBlock s).buf = [] := rfl
@[simp] theorem resetBlock_ch (s : State) : (resetBlock s).ch = s.cfg.chInit := rfl
@[simp] theorem resetBlock_ls (s : State) : (resetBlock s).ls = s.cfg.lsInit := rfl
@[simp] theorem resetBlock_frameCount (s : State) : (resetBlock s).frameCount = 0 := rfl
@[simp] theorem resetBlock_errorCount (s : State) : (resetBlock s).errorCount = 0 := rfl
@[simp] theorem resetBlock_pos (s : State) : (resetBlock s).pos = 0 := rfl
@[simp] theorem resetBlock_cfg (s : State) : (resetBlock s).cfg = s.cfg := rfl
@[simp] theorem resetBlock_outcome (s : State) : (resetBlock s).outcome = none := rfl
@[simp] theorem resetBlock_answer (s : State) : (resetBlock s).answer = none := rfl
@[simp] theorem resetBlock_pending (s : State) : (resetBlock s).pending = s.pending := rfl
@[simp] theorem resetBlock_interleave (s : State) : (resetBlock s).interleave = s.interleave := rfl
@[simp] theorem resetBlock_freeIdx (s : State) : (resetBlock s).freeIdx = s.freeIdx := rfl

/-! ### construction -/

@[simp] theorem boot_buf (cfg : Config) : (State.boot cfg).buf = [] := rfl
@[simp] theorem boot_ch (cfg : Config) : (State.boot cfg).ch = cfg.chInit := rfl
@[simp] theorem boot_ls (cfg : Config) : (State.boot cfg).ls = cfg.lsInit := rfl
@[simp] theorem boot_frameCount (cfg : Config) : (State.boot cfg).frameCount = 0 := rfl
@[simp] theorem boot_errorCount (cfg : Config) : (State.boot cfg).errorCount = 0 := rfl
@[simp] theorem boot_pos (cfg : Config) : (State.boot cfg).pos = 0 := rfl
@[simp] theorem boot_cfg (cfg : Config) : (State.boot cfg).cfg = cfg := rfl
@[simp] theorem boot_outcome (cfg : Config) : (State.boot cfg).outcome = none := rfl
@[simp] theorem boot_answer (cfg : Config) : (State.boot cfg).answer = none := rfl
@[simp] theorem boot_pending (cfg : Config) : (State.boot cfg).pending = [] := rfl
@[simp] theorem boot_interleave (cfg : Config) : (State.boot cfg).interleave = [] := rfl
@[simp] theorem boot_freeIdx (cfg : Config) : (State.boot cfg).freeIdx = 0 := rfl

end Sys2Proof.Machine
end

