-- ==== Sys2Proof/Laws/Ops.lean ====
section
/-! SUPPORT. Laws of the named operations: the buffer's canonical form, the counter's increment, and what an anomaly does. -/

namespace Sys2Proof.Machine

/-- Every buffer is in canonical form: offset `i` is the `i`-th of its pairs. -/
theorem memory_wf (m : Memory) : Memory.wf m = true := by
  simp only [Memory.wf, Memory.cells, beq_iff_eq, List.map_map]
  apply List.ext_getElem
  · simp
  · intro i h₁ h₂
    simp

/-- The primitives and construction keep the canonical form. -/
theorem bufPush_wf (b : Byte) (s : State) : Memory.wf (bufPush b s).buf = true := memory_wf _
theorem bufDrop_wf (n : Nat) (s : State) : Memory.wf (bufDrop n s).buf = true := memory_wf _
theorem reset_wf : Memory.wf State.reset.buf = true := memory_wf _

/-- Two buffers with the same bytes at every offset are the same buffer. -/
theorem memory_ext (m n : Memory) (h : ∀ i : Nat, m[i]? = n[i]?) : m = n := List.ext_getElem? h

/-- Reading after a push: the offsets below the old length read as before, the next one reads the byte. -/
theorem readByte_bufPush (b : Byte) (s : State) (i : Nat) :
    readByte (bufPush b s) i = if i < s.buf.length then readByte s i else if i = s.buf.length then some b else none := by
  simp only [readByte, bufPush_buf, List.getElem?_append]
  split
  · rfl
  · rename_i h
    obtain ⟨d, hd⟩ := Nat.exists_eq_add_of_le (Nat.le_of_not_lt h)
    cases d with
    | zero => simp [hd]
    | succ d => simp [hd]

/-- Reading after a drop: offset `i` was offset `n + i`. -/
theorem readByte_bufDrop (n : Nat) (s : State) (i : Nat) : readByte (bufDrop n s) i = readByte s (n + i) := by
  simp [readByte]

/-- A counter never decreases. -/
theorem le_counterSucc (w : Option Nat) (n : Nat) : n ≤ counterSucc w n := by
  cases w with
  | none => simp [counterSucc]
  | some w => simp only [counterSucc]; split <;> omega

/-- A finite counter that fits its width keeps fitting it. -/
theorem counterSucc_fits (w n : Nat) (h : n ≤ 2 ^ w - 1) : counterSucc (some w) n ≤ 2 ^ w - 1 := by
  simp only [counterSucc]; split <;> omega

@[simp] theorem counterSucc_none (n : Nat) : counterSucc none n = n + 1 := rfl

/-- An anomaly changes nothing but the buffer and position (a sync error), the error count (a CRC mismatch) and the returned
outcome. -/
theorem raiseAnomaly_cases (a : Anomaly) (s : State) :
    ∃ n e o, raiseAnomaly a s =
      { s with buf := s.buf.drop n, pos := s.pos + n, errorCount := e, outcome := some o } ∧
      ((n = 0 ∧ e = s.errorCount ∧ o.isDiscard = false) ∨ (n = 1 ∧ e = s.errorCount ∧ o.isDiscard = true) ∨
        (n = 0 ∧ e = counterSucc s.cfg.cntW s.errorCount ∧ o = .crcError)) := by
  cases a with
  | shortBuffer => exact ⟨0, s.errorCount, .waitShort, rfl, .inl ⟨rfl, rfl, rfl⟩⟩
  | incompleteFrame => exact ⟨0, s.errorCount, .waitIncomplete, rfl, .inl ⟨rfl, rfl, rfl⟩⟩
  | syncAddress => exact ⟨1, s.errorCount, .discardAddr, rfl, .inr (.inl ⟨rfl, rfl, rfl⟩)⟩
  | syncLengthOver => exact ⟨1, s.errorCount, .discardLenOver, rfl, .inr (.inl ⟨rfl, rfl, rfl⟩)⟩
  | syncLengthUnder => exact ⟨1, s.errorCount, .discardLenUnder, rfl, .inr (.inl ⟨rfl, rfl, rfl⟩)⟩
  | crcMismatch => exact ⟨0, _, .crcError, rfl, .inr (.inr ⟨rfl, rfl, rfl⟩)⟩
  | payloadTooShort t => exact ⟨0, s.errorCount, .frameSkipped t, rfl, .inl ⟨rfl, rfl, rfl⟩⟩

end Sys2Proof.Machine
end

