-- ==== Sys2Proof/Laws/Frames.lean ====
section
/-! SUPPORT. What a frame's instruction and the dispatch can do (`42_dispatch.md` R175). -/

namespace Sys2Proof.Machine

/-- The dispatch of a frame whose check passes is the meaning of the frame's instruction. -/
theorem dispatchFrame_of_crcOk (f : WireFrame) (s : State) (h : f.crcOk s.cfg = true) :
    dispatchFrame f s =
      if f.type = typeRcChannelsPacked then execRcChannelsPacked f.address f.payload s
      else if f.type = typeLinkStatistics then execLinkStatistics f.address f.payload s
      else execOtherType f.address f.type f.payload s := by
  simp [dispatchFrame, h]

/-- The dispatch of a frame whose check fails counts an error (R172). -/
theorem dispatchFrame_of_not_crcOk (f : WireFrame) (s : State) (h : f.crcOk s.cfg = false) :
    dispatchFrame f s = .next (raiseAnomaly .crcMismatch s) := by
  simp [dispatchFrame, h]

/-- `RC_CHANNELS_PACKED` either writes all channels or skips; it counts the frame both times. -/
theorem execRcChannelsPacked_cases (addr : Byte) (payload : List Byte) (s : State) :
    (22 ≤ payload.length ∧ execRcChannelsPacked addr payload s =
      .next { s with frameCount := counterSucc s.cfg.cntW s.frameCount, ch := unpack payload,
                     outcome := some .frameChannels }) ∨
    (payload.length < 22 ∧ execRcChannelsPacked addr payload s =
      .next { s with frameCount := counterSucc s.cfg.cntW s.frameCount,
                     outcome := some (.frameSkipped typeRcChannelsPacked) }) := by
  by_cases h : rcPayloadMin ≤ payload.length
  · exact .inl ⟨h, by simp only [execRcChannelsPacked, if_pos h, returnOutcome, writeChannels, countFrame]⟩
  · exact .inr ⟨Nat.lt_of_not_le h, by simp only [execRcChannelsPacked, if_neg h, raiseAnomaly, returnOutcome, countFrame]⟩

/-- `LINK_STATISTICS` either writes all fields or skips; it counts the frame both times. -/
theorem execLinkStatistics_cases (addr : Byte) (payload : List Byte) (s : State) :
    (10 ≤ payload.length ∧ execLinkStatistics addr payload s =
      .next { s with frameCount := counterSucc s.cfg.cntW s.frameCount, ls := lsMap payload,
                     outcome := some .frameLinkStats }) ∨
    (payload.length < 10 ∧ execLinkStatistics addr payload s =
      .next { s with frameCount := counterSucc s.cfg.cntW s.frameCount,
                     outcome := some (.frameSkipped typeLinkStatistics) }) := by
  by_cases h : lsPayloadMin ≤ payload.length
  · exact .inl ⟨h, by simp only [execLinkStatistics, if_pos h, returnOutcome, writeLinkStats, countFrame]⟩
  · exact .inr ⟨Nat.lt_of_not_le h, by simp only [execLinkStatistics, if_neg h, raiseAnomaly, returnOutcome, countFrame]⟩

/-- The five ways a dispatch ends. Each is a next state that keeps the buffer, the position, the parameters, the answer and
the queue. -/
theorem dispatchFrame_cases (f : WireFrame) (s : State) :
    (f.crcOk s.cfg = false ∧ dispatchFrame f s =
      .next { s with errorCount := counterSucc s.cfg.cntW s.errorCount, outcome := some .crcError }) ∨
    (f.crcOk s.cfg = true ∧ f.type = typeRcChannelsPacked ∧ 22 ≤ f.payload.length ∧ dispatchFrame f s =
      .next { s with frameCount := counterSucc s.cfg.cntW s.frameCount, ch := unpack f.payload,
                     outcome := some .frameChannels }) ∨
    (f.crcOk s.cfg = true ∧ f.type = typeLinkStatistics ∧ 10 ≤ f.payload.length ∧ dispatchFrame f s =
      .next { s with frameCount := counterSucc s.cfg.cntW s.frameCount, ls := lsMap f.payload,
                     outcome := some .frameLinkStats }) ∨
    (f.crcOk s.cfg = true ∧ (f.type = typeRcChannelsPacked ∨ f.type = typeLinkStatistics) ∧ dispatchFrame f s =
      .next { s with frameCount := counterSucc s.cfg.cntW s.frameCount, outcome := some (.frameSkipped f.type) }) ∨
    (f.crcOk s.cfg = true ∧ f.type ≠ typeRcChannelsPacked ∧ f.type ≠ typeLinkStatistics ∧ dispatchFrame f s =
      .next { s with frameCount := counterSucc s.cfg.cntW s.frameCount, outcome := some (.frameOther f.type) }) := by
  cases hc : f.crcOk s.cfg with
  | false => exact .inl ⟨rfl, dispatchFrame_of_not_crcOk f s hc⟩
  | true =>
    rw [dispatchFrame_of_crcOk f s hc]
    by_cases hr : f.type = typeRcChannelsPacked
    · rw [if_pos hr]
      obtain ⟨h, e⟩ | ⟨-, e⟩ := execRcChannelsPacked_cases f.address f.payload s
      · exact .inr (.inl ⟨rfl, hr, h, e⟩)
      · exact .inr (.inr (.inr (.inl ⟨rfl, .inl hr, by rw [e, hr]⟩)))
    · rw [if_neg hr]
      by_cases hl : f.type = typeLinkStatistics
      · rw [if_pos hl]
        obtain ⟨h, e⟩ | ⟨-, e⟩ := execLinkStatistics_cases f.address f.payload s
        · exact .inr (.inr (.inl ⟨rfl, hl, h, e⟩))
        · exact .inr (.inr (.inr (.inl ⟨rfl, .inr hl, by rw [e, hl]⟩)))
      · rw [if_neg hl]
        exact .inr (.inr (.inr (.inr ⟨rfl, hr, hl, rfl⟩)))

end Sys2Proof.Machine
end

