-- ==== Sys2Proof/Laws/PerInstr.lean ====
section
/-! SUPPORT. What holds of every instruction as syntax, one lemma per constructor. -/

namespace Sys2Proof.Laws.EncodedSize

open Sys2Proof Sys2Proof.Machine

/-- A well-formed instruction that travels as a frame has an encoding of `L + 2` bytes, 4 to 66 (`30_encoding.md` R81). -/
def Statement (i : Instr) : Prop :=
  ∀ (cfg : Config) (bytes : List Byte), i.wf cfg = true → encode cfg i = .frame bytes →
    bytes.length = (byteAt bytes 1).toNat + hdrLen ∧ 4 ≤ bytes.length ∧ bytes.length ≤ 66

/-- The size of one frame. -/
theorem frameBytes_size (cfg : Config) (addr type : Byte) (payload : List Byte) (h : payloadWf payload = true) :
    (frameBytes cfg addr type payload).length = (byteAt (frameBytes cfg addr type payload) 1).toNat + hdrLen
      ∧ 4 ≤ (frameBytes cfg addr type payload).length ∧ (frameBytes cfg addr type payload).length ≤ 66 := by
  simp [payloadWf, minLen, maxLen] at h
  have hb : byteAt (frameBytes cfg addr type payload) 1 = BitVec.ofNat 8 (payload.length + 2) := rfl
  rw [length_frameBytes, hb, BitVec.toNat_ofNat, hdrLen]
  omega

theorem rcChannelsPacked (addr : Byte) (payload : List Byte) : Statement (.rcChannelsPacked addr payload) := by
  rintro cfg _ hw ⟨⟩
  exact frameBytes_size _ _ _ _ (by simp [Instr.wf] at hw; exact hw.2)
theorem linkStatistics (addr : Byte) (payload : List Byte) : Statement (.linkStatistics addr payload) := by
  rintro cfg _ hw ⟨⟩
  exact frameBytes_size _ _ _ _ (by simp [Instr.wf] at hw; exact hw.2)
theorem otherType (addr type : Byte) (payload : List Byte) : Statement (.otherType addr type payload) := by
  rintro cfg _ hw ⟨⟩
  exact frameBytes_size _ _ _ _ (by simp [Instr.wf] at hw; exact hw.1.1.2)
theorem idle : Statement .idle := by rintro _ _ _ ⟨⟩
theorem push (b : Byte) : Statement (.push b) := by rintro _ _ _ ⟨⟩
theorem mstep : Statement .mstep := by rintro _ _ _ ⟨⟩
theorem attempt : Statement .attempt := by rintro _ _ _ ⟨⟩
theorem reservedCmd (c : BitVec 2) : Statement (.reservedCmd c) := by rintro _ _ _ ⟨⟩
theorem getChannels : Statement .getChannels := by rintro _ _ _ ⟨⟩
theorem getChannelsNorm : Statement .getChannelsNorm := by rintro _ _ _ ⟨⟩
theorem getChannelsUs : Statement .getChannelsUs := by rintro _ _ _ ⟨⟩
theorem getLinkStats : Statement .getLinkStats := by rintro _ _ _ ⟨⟩
theorem getCounters : Statement .getCounters := by rintro _ _ _ ⟨⟩
theorem feed (bytes : List Byte) : Statement (.feed bytes) := by rintro _ _ _ ⟨⟩
theorem drain : Statement .drain := by rintro _ _ _ ⟨⟩

end Sys2Proof.Laws.EncodedSize
end

