-- ==== Sys2Proof/Laws/Step.lean ====
section
/-! SUPPORT. What a step can do, said once. -/

namespace Sys2Proof.Machine

/-- A step that goes on: nothing pending and nothing changed; a reset, an operation, or an attempt of a drain in
progress, on the state whose queue has moved on. -/
theorem step_next {s t : State} (h : step s = .next t) :
    (s.pending = [] ∧ t = s)
      ∨ ∃ x rest, s.pending = x :: rest
        ∧ ((decodeTransaction x = .reset ∧ t = resetBlock (takeTransaction rest s))
          ∨ (∃ i, decodeTransaction x = .run i ∧ exec i (takeTransaction rest s) = .next t)
          ∨ ∃ os, decodeTransaction x = .resume os ∧ drainAttempt os (takeTransaction rest s) = .next t) := by
  unfold step at h
  split at h
  · cases h; exact .inl ⟨‹_›, rfl⟩
  · split at h
    · cases h; exact .inr ⟨_, _, ‹_›, .inl ⟨‹_›, rfl⟩⟩
    · exact .inr ⟨_, _, ‹_›, .inr (.inl ⟨_, ‹_›, h⟩)⟩
    · exact .inr ⟨_, _, ‹_›, .inr (.inr ⟨_, ‹_›, h⟩)⟩

end Sys2Proof.Machine

namespace Sys2Proof

/-- The codes 4 to 7 are the reserved commands. -/
theorem decodeCommand_reserved (cmd : BitVec 3) (din : Byte) (h : 4 ≤ cmd.toNat) :
    decodeCommand cmd din = .reservedCmd (cmd.extractLsb' 0 2) := by
  unfold decodeCommand
  split <;> first | omega | rfl

end Sys2Proof
end

