-- ==== Sys2Proof/Laws/Sync.lean ====
section
/-! SUPPORT. What one pass of the synchronizer, an attempt and an attempt of a drain can do, said once, and the independence of
the loop of `ATTEMPT` from its bound. -/

namespace Sys2Proof.Machine

/-- One pass: it waits, it discards one byte, it refuses a short length, or it dispatches the frame it has removed. -/
theorem syncPass_cases (s : State) :
    (front s.cfg s.buf = .short ∧ syncPass s = .next { s with outcome := some .waitShort }) ∨
    (front s.cfg s.buf = .incomplete ∧ syncPass s = .next { s with outcome := some .waitIncomplete }) ∨
    (∃ o, o.isDiscard = true ∧ 4 ≤ s.buf.length ∧ syncPass s =
      .next { s with buf := s.buf.drop 1, pos := s.pos + 1, outcome := some o } ∧
      ((front s.cfg s.buf = .badAddress ∧ o = .discardAddr) ∨
        (front s.cfg s.buf = .lengthOver ∧ o = .discardLenOver) ∨
        (front s.cfg s.buf = .lengthUnder ∧ o = .discardLenUnder ∧ s.cfg.shortLenPolicy = .discardOne))) ∨
    (front s.cfg s.buf = .lengthUnder ∧ s.cfg.shortLenPolicy = .refuse ∧ syncPass s = .refused .shortLength) ∨
    (∃ f, front s.cfg s.buf = .frame f ∧ syncPass s =
      dispatchFrame f { s with buf := s.buf.drop f.size, pos := s.pos + f.size }) := by
  unfold syncPass
  cases h : front s.cfg s.buf with
  | short => exact .inl ⟨rfl, rfl⟩
  | incomplete => exact .inr (.inl ⟨rfl, rfl⟩)
  | badAddress =>
    exact .inr (.inr (.inl ⟨_, rfl, ((front_badAddress _ _).mp h).1, rfl, .inl ⟨rfl, rfl⟩⟩))
  | lengthOver =>
    exact .inr (.inr (.inl ⟨_, rfl, ((front_lengthOver _ _).mp h).1, rfl, .inr (.inl ⟨rfl, rfl⟩)⟩))
  | lengthUnder =>
    cases hp : s.cfg.shortLenPolicy with
    | discardOne =>
      exact .inr (.inr (.inl
        ⟨.discardLenUnder, rfl, ((front_lengthUnder _ _).mp h).1, by simp [raiseAnomaly, returnOutcome, bufDrop],
          .inr (.inr ⟨rfl, rfl, rfl⟩)⟩))
    | refuse => exact .inr (.inr (.inr (.inl ⟨rfl, rfl, by simp⟩)))
  | frame f => exact .inr (.inr (.inr (.inr ⟨f, rfl, rfl⟩)))

/-- An extraction never looks like a discard or a wait, and the dispatch keeps the buffer. -/
theorem dispatchFrame_next {f : WireFrame} {s t : State} (h : dispatchFrame f s = .next t) :
    t.discarded = false ∧ t.waiting = false ∧ t.buf = s.buf ∧ t.pos = s.pos ∧ t.cfg = s.cfg ∧ t.answer = s.answer ∧
      t.pending = s.pending ∧ t.interleave = s.interleave ∧ t.freeIdx = s.freeIdx := by
  obtain ⟨-, e⟩ | ⟨-, -, -, e⟩ | ⟨-, -, -, e⟩ | ⟨-, -, e⟩ | ⟨-, -, -, e⟩ := dispatchFrame_cases f s <;>
    (rw [e] at h; cases h; exact ⟨rfl, rfl, rfl, rfl, rfl, rfl, rfl, rfl, rfl⟩)

/-- A pass that discards leaves one byte fewer, of at least 4. -/
theorem syncPass_discarded {s t : State} (h : syncPass s = .next t) (hd : t.discarded = true) :
    4 ≤ s.buf.length ∧ t.buf = s.buf.drop 1 ∧ t.pos = s.pos + 1 ∧ t.cfg = s.cfg := by
  obtain ⟨-, e⟩ | ⟨-, e⟩ | ⟨o, -, h4, e, -⟩ | ⟨-, -, e⟩ | ⟨f, -, e⟩ := syncPass_cases s
  · rw [e] at h; cases h; simp [State.discarded, DecodeOutcome.isDiscard] at hd
  · rw [e] at h; cases h; simp [State.discarded, DecodeOutcome.isDiscard] at hd
  · rw [e] at h; cases h; exact ⟨h4, rfl, rfl, rfl⟩
  · rw [e] at h; cases h
  · rw [e] at h; rw [(dispatchFrame_next h).1] at hd; cases hd

/-- The attempt's loop by its next pass. -/
theorem attemptLoop_succ (n : Nat) (s : State) :
    attemptLoop (n + 1) s =
      match syncPass s with
      | .next t => if t.discarded then attemptLoop n t else .next t
      | .fault r => .fault r
      | .refused r => .refused r := rfl

/-- With at most 3 bytes buffered no pass discards, so one pass is all the loop does. -/
theorem attemptLoop_short (n : Nat) (s : State) (h : s.buf.length ≤ 3) : attemptLoop n s = syncPass s := by
  cases n with
  | zero => rfl
  | succ n =>
    rw [attemptLoop_succ]
    cases hp : syncPass s with
    | next t =>
      cases hd : t.discarded with
      | false => simp [hd]
      | true => have := (syncPass_discarded hp hd).1; omega
    | fault r => rfl
    | refused r => rfl

/-- The bound of the attempt's loop is never met: any two that leave at most 3 bytes give the same answer (`41_frame_sync.md`
R149). -/
theorem attemptLoop_fuel (m n : Nat) (s : State) (hm : s.buf.length ≤ m + 3) (hn : s.buf.length ≤ n + 3) :
    attemptLoop m s = attemptLoop n s := by
  induction m generalizing n s with
  | zero => rw [attemptLoop_short _ s (by omega), attemptLoop_short _ s (by omega)]
  | succ m ih =>
    cases n with
    | zero => rw [attemptLoop_short _ s (by omega), attemptLoop_short _ s (by omega)]
    | succ n =>
      rw [attemptLoop_succ, attemptLoop_succ]
      cases hp : syncPass s with
      | next t =>
        cases hd : t.discarded with
        | false => simp [hd]
        | true =>
          have hb := (syncPass_discarded hp hd).2.1
          simp only [hd, if_true]
          exact ih n t (by simp [hb]; omega) (by simp [hb]; omega)
      | fault r => rfl
      | refused r => rfl

/-- What an attempt answers, said once: it never returns a discard; it waits, having only dropped bytes, or it removed a frame
of at least 4 bytes. -/
theorem attemptLoop_next (n : Nat) (s t : State) (hn : s.buf.length ≤ n + 3) (h : attemptLoop n s = .next t) :
    t.discarded = false ∧ t.cfg = s.cfg ∧ t.answer = s.answer ∧ t.pending = s.pending ∧ t.interleave = s.interleave ∧ t.freeIdx = s.freeIdx ∧
      (∃ o, t.outcome = some o) ∧
      ∃ k, k ≤ s.buf.length ∧ t.buf = s.buf.drop k ∧ t.pos = s.pos + k ∧ (t.waiting = false → 4 ≤ k) := by
  induction n generalizing s with
  | zero =>
    rw [attemptLoop_short 0 s (by omega)] at h
    obtain ⟨-, e⟩ | ⟨-, e⟩ | ⟨o, -, h4, -, -⟩ | ⟨-, -, e⟩ | ⟨f, hf, -⟩ := syncPass_cases s
    · rw [e] at h; cases h
      exact ⟨rfl, rfl, rfl, rfl, rfl, rfl, ⟨_, rfl⟩, 0, Nat.zero_le _, rfl, rfl, fun h => nomatch h⟩
    · rw [e] at h; cases h
      exact ⟨rfl, rfl, rfl, rfl, rfl, rfl, ⟨_, rfl⟩, 0, Nat.zero_le _, rfl, rfl, fun h => nomatch h⟩
    · omega
    · rw [e] at h; cases h
    · have := front_frame_size hf; omega
  | succ n ih =>
    rw [attemptLoop_succ] at h
    obtain ⟨-, e⟩ | ⟨-, e⟩ | ⟨o, ho, h4, e, -⟩ | ⟨-, -, e⟩ | ⟨f, hf, e⟩ := syncPass_cases s
    · rw [e] at h; cases h
      exact ⟨rfl, rfl, rfl, rfl, rfl, rfl, ⟨_, rfl⟩, 0, Nat.zero_le _, rfl, rfl, fun h => nomatch h⟩
    · rw [e] at h; cases h
      exact ⟨rfl, rfl, rfl, rfl, rfl, rfl, ⟨_, rfl⟩, 0, Nat.zero_le _, rfl, rfl, fun h => nomatch h⟩
    · rw [e] at h
      simp only [State.discarded, Option.any_some, ho, if_true] at h
      obtain ⟨a, b, c, d, l, e', g, k, hk, hb, hp, hw⟩ := ih _ (by simp; omega) h
      refine ⟨a, b, c, d, l, e', g, k + 1, ?_, ?_, ?_, fun hh => Nat.le_succ_of_le (hw hh)⟩
      · simp at hk; omega
      · rw [hb]; simp
      · rw [hp]; simp; omega
    · rw [e] at h; cases h
    · rw [e] at h
      obtain ⟨u, hu⟩ : ∃ u, dispatchFrame f { s with buf := s.buf.drop f.size, pos := s.pos + f.size } = .next u := by
        obtain ⟨-, e⟩ | ⟨-, -, -, e⟩ | ⟨-, -, -, e⟩ | ⟨-, -, e⟩ | ⟨-, -, -, e⟩ := dispatchFrame_cases f
          { s with buf := s.buf.drop f.size, pos := s.pos + f.size } <;> exact ⟨_, e⟩
      have ho : ∃ o, u.outcome = some o := by
        obtain ⟨-, e⟩ | ⟨-, -, -, e⟩ | ⟨-, -, -, e⟩ | ⟨-, -, e⟩ | ⟨-, -, -, e⟩ := dispatchFrame_cases f
          { s with buf := s.buf.drop f.size, pos := s.pos + f.size } <;>
          (rw [e] at hu; cases hu; exact ⟨_, rfl⟩)
      obtain ⟨hd, hw, hb, hp, hc, ha, hq, hl, hi⟩ := dispatchFrame_next hu
      rw [hu] at h
      simp only [hd, Bool.false_eq_true, if_false] at h
      cases h
      have hs := front_frame_size hf
      exact ⟨hd, hc, ha, hq, hl, hi, ho, f.size, hs.2.2.2, hb, hp, fun _ => hs.2.1⟩

/-- An attempt, from the loop at the bound `ATTEMPT` gives it. -/
theorem execAttempt_next {s t : State} (h : execAttempt s = .next t) :
    t.discarded = false ∧ t.cfg = s.cfg ∧ t.answer = s.answer ∧ t.pending = s.pending ∧ t.interleave = s.interleave ∧ t.freeIdx = s.freeIdx ∧
      (∃ o, t.outcome = some o) ∧
      ∃ k, k ≤ s.buf.length ∧ t.buf = s.buf.drop k ∧ t.pos = s.pos + k ∧ (t.waiting = false → 4 ≤ k) :=
  attemptLoop_next _ s t (by omega) h

/-- What one attempt of a drain answers, said once: an attempt that waits ends the drain with its list; any other puts the rest
of the drain back into the queue, its outcome at the list's end (`41_frame_sync.md` R155). -/
theorem drainAttempt_next {outcomes : List DecodeOutcome} {s t : State} (h : drainAttempt outcomes s = .next t) :
    ∃ u, execAttempt s = .next u ∧
      ((u.waiting = true ∧ t = returnAnswer (.events outcomes) u) ∨
        (u.waiting = false ∧ t = continueDrain (outcomes ++ u.outcome.toList) u)) := by
  unfold drainAttempt at h
  split at h
  · split at h <;> cases h
    · exact ⟨_, ‹_›, .inl ⟨‹_›, rfl⟩⟩
    · exact ⟨_, ‹_›, .inr ⟨Bool.eq_false_iff.mpr ‹_›, rfl⟩⟩
  · cases h
  · cases h

end Sys2Proof.Machine
end

