-- ==== Sys2Proof/Laws/Views.lean ====
section
/-! SUPPORT. The binary64 rendering: what its exponent is, and the number its bit pattern stands for. -/

namespace Sys2Proof.Machine

/-- The exponent of a quotient: the quotient is below the next power of two, and no less than this one unless this is the
least exponent of a normal number. -/
theorem binary64Exponent_spec (m d : Nat) (hm : 0 < m) (hd : 0 < d) :
    -1022 ≤ binary64Exponent m d ∧ (m : Rat) < d * 2 ^ (binary64Exponent m d + 1) ∧
      (binary64Exponent m d = -1022 ∨ (d : Rat) * 2 ^ binary64Exponent m d ≤ m) := by
  have hm1 : (2 : Rat) ^ m.log2 ≤ m := by exact_mod_cast Nat.log2_self_le hm.ne'
  have hm2 : (m : Rat) < 2 ^ (m.log2 + 1) := by exact_mod_cast Nat.lt_log2_self
  have hd1 : (2 : Rat) ^ d.log2 ≤ d := by exact_mod_cast Nat.log2_self_le hd.ne'
  have hd2 : (d : Rat) < 2 ^ (d.log2 + 1) := by exact_mod_cast Nat.lt_log2_self
  have hdp : (0 : Rat) < d := by exact_mod_cast hd
  generalize hE : (m.log2 : Int) - (d.log2 : Int) = E
  have hz : (2 : Rat) ^ E * 2 ^ d.log2 = 2 ^ m.log2 := by
    rw [← hE, zpow_sub₀ (by norm_num), zpow_natCast, zpow_natCast]
    field_simp
  have hp : (0 : Rat) < 2 ^ E := by positivity
  have hup : (m : Rat) < d * 2 ^ (E + 1) := by
    rw [zpow_add_one₀ (by norm_num)]
    calc (m : Rat) < 2 ^ (m.log2 + 1) := hm2
      _ = 2 ^ d.log2 * (2 ^ E * 2) := by rw [pow_succ, ← hz]; ring
      _ ≤ d * (2 ^ E * 2) := by gcongr
  have hlo : (d : Rat) * 2 ^ (E - 1) ≤ m := by
    rw [zpow_sub_one₀ (by norm_num)]
    calc (d : Rat) * (2 ^ E * 2⁻¹) ≤ 2 ^ (d.log2 + 1) * (2 ^ E * 2⁻¹) := by gcongr
      _ = 2 ^ m.log2 := by rw [pow_succ, ← hz]; ring
      _ ≤ m := hm1
  generalize hR : (if 0 ≤ E then decide (d * 2 ^ E.toNat ≤ m) else decide (d ≤ m * 2 ^ (-E).toNat)) = reached
  have hreach : reached = true ↔ (d : Rat) * 2 ^ E ≤ m := by
    rw [← hR]
    split
    · obtain ⟨k, rfl⟩ := Int.eq_ofNat_of_zero_le ‹0 ≤ E›
      simp only [Int.toNat_natCast, decide_eq_true_eq, zpow_natCast]
      exact_mod_cast Iff.rfl
    · obtain ⟨k, hk⟩ := Int.eq_ofNat_of_zero_le (show 0 ≤ -E by omega)
      rw [show E = -(k : Int) by omega]
      simp only [neg_neg, Int.toNat_natCast, decide_eq_true_eq, zpow_neg, zpow_natCast]
      rw [← div_eq_mul_inv, div_le_iff₀ (by positivity)]
      exact_mod_cast Iff.rfl
  have hdef : binary64Exponent m d = max (if reached then E else E - 1) (-1022) := by
    rw [← hR, ← hE]; rfl
  rw [hdef]
  generalize he : (if reached = true then E else E - 1) = e
  have hs : (m : Rat) < d * 2 ^ (e + 1) ∧ (d : Rat) * 2 ^ e ≤ m := by
    cases hr : reached with
    | true => rw [hr, if_pos rfl] at he; subst he; exact ⟨hup, hreach.mp hr⟩
    | false =>
      rw [hr, if_neg (by decide)] at he; subst he
      rw [sub_add_cancel]
      exact ⟨not_le.mp fun h => by simp [hreach.mpr h] at hr, hlo⟩
  refine ⟨le_max_right _ _, lt_of_lt_of_le hs.1 ?_, ?_⟩
  · gcongr
    · norm_num
    · exact le_max_left _ _
  · rcases le_total e (-1022) with h | h
    · exact .inl (max_eq_right h)
    · exact .inr (by rw [max_eq_left h]; exact hs.2)

/-- The number of a pattern without its sign: a significand of 53 bits (or its carry) at a biased exponent, or a smaller one at
the least exponent. -/
theorem binary64Value_magnitude (k sig : Nat) (sign : Bool) (hk : k * 2 ^ 52 + sig < 2047 * 2 ^ 52) (hs : sig ≤ 2 ^ 53)
    (hn : k = 0 ∨ 2 ^ 52 ≤ sig) :
    binary64Value (BitVec.ofNat 64 ((if sign then 2 ^ 63 else 0) + (k * 2 ^ 52 + sig))) =
      some ((if sign then -1 else 1) * ((sig : Rat) * 2 ^ k / 2 ^ 1074)) := by
  set p := (if sign then 2 ^ 63 else 0) + (k * 2 ^ 52 + sig) with hp
  have hp64 : p < 2 ^ 64 := by rw [hp]; split <;> omega
  have hb : ((BitVec.ofNat 64 p).extractLsb' 52 11).toNat = (k * 2 ^ 52 + sig) / 2 ^ 52 := by
    rw [BitVec.extractLsb'_toNat, BitVec.toNat_ofNat, Nat.mod_eq_of_lt hp64, Nat.shiftRight_eq_div_pow, hp]
    split <;> omega
  have hf : ((BitVec.ofNat 64 p).extractLsb' 0 52).toNat = (k * 2 ^ 52 + sig) % 2 ^ 52 := by
    rw [BitVec.extractLsb'_toNat, BitVec.toNat_ofNat, Nat.mod_eq_of_lt hp64, Nat.shiftRight_zero, hp]
    split <;> omega
  have hg : (BitVec.ofNat 64 p).getLsbD 63 = sign := by
    rw [BitVec.getLsbD_ofNat, Nat.testBit_eq_decide_div_mod_eq, hp]
    cases sign <;> simp <;> omega
  have hsgn : ∀ x y : Rat, x = y → some (if sign = true then -x else x) = some ((if sign = true then -1 else 1) * y) := by
    rintro x _ rfl; cases sign <;> simp
  have hne : (k * 2 ^ 52 + sig) / 2 ^ 52 ≠ 0x7FF := by omega
  simp only [binary64Value, hb, hf, hg, if_neg hne]
  apply hsgn
  by_cases h0 : (k * 2 ^ 52 + sig) / 2 ^ 52 = 0
  · rw [if_pos h0]
    obtain rfl : k = 0 := by omega
    rw [zero_mul, zero_add, Nat.mod_eq_of_lt (by omega), pow_zero, mul_one]
  · rw [if_neg h0]
    by_cases h1 : sig < 2 ^ 53
    · rw [show (k * 2 ^ 52 + sig) / 2 ^ 52 = k + 1 by omega, show 2 ^ 52 + (k * 2 ^ 52 + sig) % 2 ^ 52 = sig by omega,
        pow_succ, show (2 : Rat) ^ 1075 = 2 ^ 1074 * 2 from pow_succ _ _]
      field_simp
    · obtain rfl : sig = 2 ^ 53 := by omega
      rw [show (k * 2 ^ 52 + 2 ^ 53) / 2 ^ 52 = k + 2 by omega, show 2 ^ 52 + (k * 2 ^ 52 + 2 ^ 53) % 2 ^ 52 = 2 ^ 52 by omega,
        show (2 : Rat) ^ 1075 = 2 ^ 1074 * 2 from pow_succ _ _, show (2 : Rat) ^ (k + 2) = 2 ^ k * 4 by rw [pow_add]; norm_num]
      push_cast
      field_simp
      norm_num

end Sys2Proof.Machine
end

