-- ==== Sys2Proof/Tests/Slice0.lean ====
section
/-! SUPPORT. The model's own tests: the checks of `WellFormed.lean`, words and figures of `95_test_vectors.md` and of the
rules' own tables, and for every statement with hypotheses a state and operands that meet them. -/

namespace Sys2Proof.Tests

open Sys2Proof Sys2Proof.Machine

set_option Elab.async false

/-! ## Helpers -/

/-- The reset state with bytes in the buffer. -/
def withBuf (buf : List Byte) : State := { State.reset with buf := buf }

/-- The reset state with one parameter record in place of the default. -/
def withCfg (cfg : Config) (buf : List Byte) : State := { State.boot cfg with buf := buf }

/-- The next state, where there is one. -/
def nextOf : Result → Option State
  | .next t => some t
  | .fault _ => none
  | .refused _ => none

/-- The refusal, where there is one. -/
def refusalOf : Result → Option Refusal
  | .next _ => none
  | .fault _ => none
  | .refused r => some r

/-- What the tests look at after an operation. -/
structure Summary where
  outcome : Option DecodeOutcome
  frameCount : Nat
  errorCount : Nat
  pos : Nat
  buf : List Byte
  deriving DecidableEq, Repr

/-- The outcome, `frame_count`, `error_count`, position and buffer an operation leaves. -/
def summary (r : Result) : Option Summary :=
  (nextOf r).map fun t => ⟨t.outcome, t.frameCount, t.errorCount, t.pos, t.buf⟩

/-- Frame E1 of `95_test_vectors.md`. -/
def frameE1 : List Byte :=
  [0xC8#8, 0x18#8, 0x16#8, 0xE0#8, 0x03#8] ++ List.replicate 20 0x00#8 ++ [0xD4#8]

/-- Frame E2 of `95_test_vectors.md`. -/
def frameE2 : List Byte :=
  [0xC8#8, 0x0C#8, 0x14#8, 0x32#8, 0x30#8, 0x4B#8, 0xF6#8, 0x01#8, 0x02#8, 0x14#8, 0x00#8, 0x00#8, 0x00#8, 0x73#8]

/-- Frame T1 of `95_test_vectors.md`, the shortest one. -/
def frameT1 : List Byte := [0xC8#8, 0x02#8, 0x00#8, 0x00#8]

/-- Vector S10 without its last byte: the longest frame, 66 bytes with its CRC byte `E7`. -/
def frameS10 : List Byte := [0xEE#8, 0x40#8, 0x7F#8] ++ (List.range 62).map (BitVec.ofNat 8)

/-- Three noise bytes. -/
def noise3 : List Byte := [0xFF#8, 0x01#8, 0x7E#8]

/-- Parameters that refuse a short length. -/
def refuseCfg : Config := { defaultConfig with shortLenPolicy := .refuse }

/-- Parameters with a finite buffer and a finite counter. -/
def finiteCfg : Config := { defaultConfig with bufCap := some 66, cntW := some 8 }

/-- The parts of a frame, for `SingleBitFlipIsACrcError`. -/
def wireT1 : WireFrame := ⟨0xC8#8, 0x02#8, 0x00#8, [], 0x00#8⟩

/-! ## Well-formedness: an ill-formed term for each check -/

/-- `30_encoding.md` R83: 12 values are one too few. -/
theorem test_whitelist_twelve_values_refused :
    ({ defaultConfig with addrWhitelist := defaultWhitelist.filter (· ≠ 0x10#8) } : Config).whitelistWf = false := by
  decide
/-- R83: 14 values are one too many. -/
theorem test_whitelist_fourteen_values_refused :
    ({ defaultConfig with addrWhitelist := 0x11#8 :: defaultWhitelist } : Config).whitelistWf = false := by decide
/-- R83: no value twice. -/
theorem test_whitelist_repeat_refused :
    ({ defaultConfig with addrWhitelist := 0x80#8 :: defaultWhitelist.filter (· ≠ 0x10#8) } : Config).whitelistWf
      = false := by decide
/-- R83: the least value is 0x00. -/
theorem test_whitelist_without_00_refused :
    ({ defaultConfig with addrWhitelist := 0x11#8 :: defaultWhitelist.filter (· ≠ 0x00#8) } : Config).whitelistWf
      = false := by decide
/-- R83: the greatest value is 0xEE; here it is missing. -/
theorem test_whitelist_without_EE_refused :
    ({ defaultConfig with addrWhitelist := 0x11#8 :: defaultWhitelist.filter (· ≠ 0xEE#8) } : Config).whitelistWf
      = false := by decide
/-- R83: 0xC8 is a member. -/
theorem test_whitelist_without_C8_refused :
    ({ defaultConfig with addrWhitelist := 0x11#8 :: defaultWhitelist.filter (· ≠ 0xC8#8) } : Config).whitelistWf
      = false := by decide
/-- R83: no value above 0xEE. -/
theorem test_whitelist_above_EE_refused :
    ({ defaultConfig with addrWhitelist := 0xEF#8 :: defaultWhitelist.filter (· ≠ 0x10#8) } : Config).whitelistWf
      = false := by decide
/-- `20_memory.md` R67: a finite `BUF_CAP` is at least 66. -/
theorem test_buf_cap_65_refused : ({ defaultConfig with bufCap := some 65 } : Config).wf = false := by decide
/-- The default parameters and the finite ones are well formed. -/
theorem test_parameters_admitted : defaultConfig.wf = true ∧ refuseCfg.wf = true ∧ finiteCfg.wf = true := by decide
/-- `30_encoding.md` R83: 0xC9 is no address. -/
theorem test_bad_address_refused : (Instr.rcChannelsPacked 0xC9#8 []).wf defaultConfig = false := by decide
/-- R80, R84: a payload of 63 bytes needs a length byte of 65. -/
theorem test_payload_63_refused :
    (Instr.linkStatistics 0xC8#8 (List.replicate 63 0#8)).wf defaultConfig = false
      ∧ (Instr.linkStatistics 0xC8#8 (List.replicate 62 0#8)).wf defaultConfig = true := by decide
/-- R85: the two decoded types are no other type. -/
theorem test_other_type_16_and_14_refused :
    (Instr.otherType 0xC8#8 0x16#8 []).wf defaultConfig = false
      ∧ (Instr.otherType 0xC8#8 0x14#8 []).wf defaultConfig = false
      ∧ (Instr.otherType 0xC8#8 0x15#8 []).wf defaultConfig = true := by decide

/-! ## Decoding: words written out from the spec's encodings -/

/-- The worked example of `42_dispatch.md` R176, with the first two bytes of another frame behind it. -/
theorem test_decode_other_type :
    decode defaultConfig [0x00#8, 0x04#8, 0x28#8, 0x00#8, 0xEA#8, 0x54#8, 0xC8#8, 0x02#8]
      = .ok (.otherType 0x00#8 0x28#8 [0x00#8, 0xEA#8], [0xC8#8, 0x02#8]) := by decide +kernel
/-- Frame E1. -/
theorem test_decode_rc_channels_packed :
    decode defaultConfig frameE1
      = .ok (.rcChannelsPacked 0xC8#8 ([0xE0#8, 0x03#8] ++ List.replicate 20 0x00#8), []) := by decide +kernel
/-- Frame E2. -/
theorem test_decode_link_statistics :
    decode defaultConfig frameE2
      = .ok (.linkStatistics 0xC8#8
          [0x32#8, 0x30#8, 0x4B#8, 0xF6#8, 0x01#8, 0x02#8, 0x14#8, 0x00#8, 0x00#8, 0x00#8], []) := by decide +kernel
/-- Vectors S2, S4, S5, S6, S7, T3: the rejections, each by name. -/
theorem test_decode_rejects_by_name :
    decode defaultConfig [0xC8#8, 0x02#8, 0x00#8] = .error .short
      ∧ decode defaultConfig [0xFF#8, 0xC8#8, 0x02#8, 0x00#8] = .error .badAddress
      ∧ decode defaultConfig [0xC8#8, 0x41#8, 0x16#8, 0x00#8, 0x00#8] = .error .lengthOver
      ∧ decode defaultConfig [0xC8#8, 0x01#8, 0xC8#8, 0x02#8, 0x00#8, 0x00#8] = .error .lengthUnder
      ∧ decode defaultConfig [0xC8#8, 0x40#8, 0x16#8, 0x00#8, 0x00#8] = .error .incomplete
      ∧ decode defaultConfig [0xC8#8, 0x02#8, 0x16#8, 0xD2#8] = .error .badCrc := by decide +kernel
/-- `30_encoding.md` R92: the command codes 0 to 3, and the bits `1cc` of the rest. -/
theorem test_decode_commands :
    decodeTransaction (.port false 0b000#3 0xFF#8) = .run .idle
      ∧ decodeTransaction (.port false 0b001#3 0xFF#8) = .run (.push 0xFF#8)
      ∧ decodeTransaction (.port false 0b010#3 0xFF#8) = .run .mstep
      ∧ decodeTransaction (.port false 0b011#3 0xFF#8) = .run .attempt
      ∧ decodeTransaction (.port false 0b100#3 0xFF#8) = .run (.reservedCmd 0b00#2)
      ∧ decodeTransaction (.port false 0b111#3 0xFF#8) = .run (.reservedCmd 0b11#2)
      ∧ decodeTransaction (.port true 0b001#3 0xFF#8) = .reset := by decide
/-- R93, R94: the queries and the pseudo-instructions by their names. -/
theorem test_decode_names :
    decodeTransaction (.query .channels) = .run .getChannels
      ∧ decodeTransaction (.query .channelsNorm) = .run .getChannelsNorm
      ∧ decodeTransaction (.query .channelsUs) = .run .getChannelsUs
      ∧ decodeTransaction (.query .linkStats) = .run .getLinkStats
      ∧ decodeTransaction (.query .counters) = .run .getCounters
      ∧ decodeTransaction (.feed [0x01#8]) = .run (.feed [0x01#8])
      ∧ decodeTransaction .drain = .run .drain := by decide
/-- `opcode_table.json`: the type bytes and the command codes of its rows. -/
theorem test_table_words :
    decodeTableWord 8 0x16 = some (.rcChannelsPacked 0xC8#8 (List.replicate 22 0x00#8))
      ∧ decodeTableWord 8 0x14 = some (.linkStatistics 0xC8#8 (List.replicate 10 0x00#8))
      ∧ decodeTableWord 8 0x28 = some (.otherType 0xC8#8 0x28#8 [])
      ∧ decodeTableWord 8 2 = some .mstep ∧ decodeTableWord 16 0x5A01 = some (.push 0x5A#8) := by decide +kernel
/-- The next step runs the placed word: the two decoded frame types. -/
theorem test_step_runs_the_table_word :
    (nextOf (step (State.reset.withFetchWord 8 0x16))).map (fun t => (t.outcome, t.frameCount))
        = some (some .frameChannels, 1)
      ∧ (nextOf (step (State.reset.withFetchWord 8 0x14))).map (fun t => (t.outcome, t.frameCount))
        = some (some .frameLinkStats, 1) := by decide +kernel

/-! ## CRC8: the values and the trace of `95_test_vectors.md` section 2.1 -/

/-- The conventional check value and two single bytes. -/
theorem test_crc_values :
    crc8 0x00#8 [0x31#8, 0x32#8, 0x33#8, 0x34#8, 0x35#8, 0x36#8, 0x37#8, 0x38#8, 0x39#8] = 0xBC#8
      ∧ crc8 0x00#8 [0x80#8] = 0xEF#8 ∧ crc8 0x00#8 [0x14#8, 0x32#8] = 0x15#8 ∧ crc8 0x00#8 [] = 0x00#8 := by
  decide +kernel
/-- The 8 inner iterations on 0x80. -/
theorem test_crc_trace :
    (crcShift 0x80#8, crcShift 0xD5#8, crcShift 0x7F#8, crcShift 0xFE#8, crcShift 0x29#8, crcShift 0x52#8,
      crcShift 0xA4#8, crcShift 0x9D#8)
      = (0xD5#8, 0x7F#8, 0xFE#8, 0x29#8, 0x52#8, 0xA4#8, 0x9D#8, 0xEF#8) := by decide

/-! ## One operation of each instruction -/

/-- Vector V3: the 22 payload bytes and the 16 values. -/
def payloadV3 : List Byte :=
  [0xAC#8, 0x00#8, 0xDF#8, 0xC4#8, 0x01#8, 0xF0#8, 0xFF#8, 0x00#8, 0x00#8, 0xB0#8, 0xAA#8, 0xAA#8, 0x42#8, 0x1F#8,
    0x77#8, 0xA1#8, 0x5F#8, 0x80#8, 0x26#8, 0x48#8, 0x33#8, 0x28#8]

/-- The values vector V3 packs. -/
def valuesV3 : List Nat := [172, 992, 1811, 0, 2047, 1, 1024, 1365, 682, 1000, 1500, 2000, 5, 77, 1234, 321]

/-- Vector V3: 16 different values come out in order. -/
theorem test_rc_channels_values :
    (nextOf (exec (.rcChannelsPacked 0xC8#8 payloadV3) State.reset)).map (fun t => t.ch.toList.map BitVec.toNat)
      = some valuesV3 := by decide +kernel
/-- Vector V3: packing the values gives the payload. -/
theorem test_pack_values :
    pack (Vector.ofFn fun k : Fin 16 => BitVec.ofNat 11 (valuesV3.getD k.val 0)) = payloadV3 := by decide +kernel
/-- Vector L2: bytes 0 to 6 in order, bytes 7 to 9 ignored. -/
theorem test_link_statistics_fields :
    (nextOf (exec (.linkStatistics 0xEA#8
        [0xA6#8, 0x9C#8, 0x64#8, 0x80#8, 0x00#8, 0x04#8, 0x03#8, 0xB0#8, 0x63#8, 0x7F#8]) State.reset)).map (fun t => t.ls)
      = some ⟨0xA6#8, 0x9C#8, 0x64#8, 0x80#8, 0x00#8, 0x04#8, 0x03#8⟩ := by decide +kernel
/-- Vector L4: 9 payload bytes are one too few. -/
theorem test_link_statistics_short :
    summary (exec (.linkStatistics 0xEC#8 (List.replicate 9 0xFF#8)) State.reset)
      = some ⟨some (.frameSkipped 0x14#8), 1, 0, 0, []⟩ := by decide +kernel
/-- `42_dispatch.md` R176. -/
theorem test_other_type_counted :
    summary (exec (.otherType 0xC8#8 0x08#8 [0x01#8]) State.reset) = some ⟨some (.frameOther 0x08#8), 1, 0, 0, []⟩ := by
  decide +kernel
/-- Vector S4. -/
theorem test_mstep_discards_one :
    summary (exec .mstep (withBuf [0xFF#8, 0xC8#8, 0x02#8, 0x00#8]))
      = some ⟨some .discardAddr, 0, 0, 1, [0xC8#8, 0x02#8, 0x00#8]⟩ := by decide +kernel
/-- Vector S9: a false sync takes the real frame inside it. -/
theorem test_mstep_false_sync :
    summary (exec .mstep (withBuf ([0xEE#8, 0x04#8] ++ frameT1 ++ [0xC8#8])))
      = some ⟨some .crcError, 0, 1, 6, [0xC8#8]⟩ := by decide +kernel
/-- Vector S7: three discards, then a frame. -/
theorem test_attempt_resynchronizes :
    summary (exec .attempt (withBuf ([0xC8#8, 0x01#8, 0x00#8] ++ frameT1)))
      = some ⟨some (.frameOther 0x00#8), 1, 0, 7, []⟩ := by decide +kernel
/-- Vector S5b: two discards, then a wait. -/
theorem test_attempt_waits :
    summary (exec .attempt (withBuf [0xC8#8, 0x41#8, 0x16#8, 0x00#8, 0x00#8]))
      = some ⟨some .waitShort, 0, 0, 2, [0x16#8, 0x00#8, 0x00#8]⟩ := by decide +kernel
/-- Program P2 without its RC frame: noise and a frame, drained in three steps. -/
theorem test_drain_lists_the_outcomes :
    (nextOf (runSteps 3 { withBuf (noise3 ++ frameT1 ++ frameE2) with pending := [.drain] })).map
        (fun t => (t.answer, t.pos, t.pending))
      = some (some (.events [.frameOther 0x00#8, .frameLinkStats]), 21, []) := by decide +kernel
/-- `41_frame_sync.md` R155: a query between two attempts of a drain sees the counters in between. -/
theorem test_query_between_two_attempts :
    (nextOf (runSteps 2 { withBuf (frameT1 ++ frameT1) with pending := [.drain, .query .counters], interleave := [1] })).map
        (fun t => (t.answer, t.pending))
      = some (some (.counters 1 0 0), [.drainOn [.frameOther 0x00#8]]) := by decide +kernel

/-- `30_encoding.md` R94: the order of the pushes. -/
theorem test_feed_order :
    (nextOf (exec (.feed [0x01#8, 0x02#8]) (withBuf [0x09#8]))).map (fun t => t.buf)
      = some [0x09#8, 0x01#8, 0x02#8] := by decide
/-- `20_memory.md` R67: a feed that does not fit is refused. -/
theorem test_feed_overfull_refused :
    refusalOf (exec (.feed [0x01#8, 0x02#8]) (withCfg finiteCfg (List.replicate 65 0#8))) = some .bufferFull := by
  decide +kernel
/-- `45_host_interface.md` R233. -/
theorem test_push_appends :
    (nextOf (exec (.push 0x7F#8) (withBuf [0x01#8]))).map (fun t => t.buf) = some [0x01#8, 0x7F#8] := by decide
/-- R236. -/
theorem test_reserved_command_refused :
    refusalOf (exec (.reservedCmd 2#2) State.reset) = some (.reservedCommand 2#2) := by decide
/-- R232. -/
theorem test_idle : nextOf (exec .idle (withBuf noise3)) = some (withBuf noise3) := by decide

/-- A state whose channels 0 to 3 hold raw values of the table of `95_test_vectors.md` section 7. -/
def rawState : State :=
  { State.reset with ch := Vector.ofFn fun k : Fin 16 => BitVec.ofNat 11 ([171, 1812, 2047, 0].getD k.val 992) }

/-- R237. -/
theorem test_get_channels :
    (nextOf (exec .getChannels rawState)).map (fun t => match t.answer with
      | some (.channels v) => v.toList.take 5
      | _ => []) = some [171, 1812, 2047, 0, 992] := by decide +kernel
/-- R238: not clamped. -/
theorem test_get_channels_norm :
    (nextOf (exec .getChannelsNorm rawState)).map (fun t => match t.answer with
      | some (.channelsNorm v) => v.toList.take 5
      | _ => []) = some [-821 / 819, 820 / 819, 1055 / 819, -992 / 819, 0] := by decide +kernel
/-- R239: floor, not clamped. -/
theorem test_get_channels_us :
    (nextOf (exec .getChannelsUs rawState)).map (fun t => match t.answer with
      | some (.channelsUs v) => v.toList.take 5
      | _ => []) = some [999, 2000, 2143, 895, 1500] := by decide +kernel
/-- The table's last two columns: truncation and rounding to nearest. -/
theorem test_us_alternatives :
    usOf .truncate 0#11 = 896 ∧ usOf .truncate 171#11 = 1000 ∧ usOf .nearest 173#11 = 1001
      ∧ usOf .nearest 1#11 = 896 ∧ usOf .nearest 2047#11 = 2144 := by decide +kernel
/-- R240, R213: 0xF6 is -10. -/
theorem test_get_link_stats :
    (nextOf (exec .getLinkStats { State.reset with ls := ⟨50#8, 48#8, 75#8, 0xF6#8, 1#8, 2#8, 20#8⟩ })).map
        (fun t => t.answer)
      = some (some (.linkStats ⟨50, 48, 75, -10, 1, 2, 20⟩)) := by decide
/-- R242: the four quotients of section 7. -/
theorem test_error_rate :
    errorRateOf 0 0 = 0 ∧ errorRateOf 1 4 = 1 / 4 ∧ errorRateOf 3 1 = 3 ∧ errorRateOf 2 0 = 2 := by decide +kernel
/-- Section 7, the binary64 column: -1.0, 1.0 and 0.0 by their bit patterns. -/
theorem test_binary64 :
    normBinary64 173#11 = 0xBFF0000000000000#64 ∧ normBinary64 1811#11 = 0x3FF0000000000000#64
      ∧ normBinary64 992#11 = 0#64 ∧ errorRateBinary64 1 4 = 0x3FD0000000000000#64 := by decide +kernel

/-- The hypotheses on a buffer whose header is legal and whose declared length is `len`. -/
def legalHeader (buf : List Byte) (len : Nat) : Prop :=
  len = (byteAt buf 1).toNat ∧ 4 ≤ buf.length ∧ byteAt buf 0 ∈ defaultConfig.addrWhitelist ∧ 2 ≤ len ∧ len ≤ 64

/-! ## Witnesses: for every statement with hypotheses, a state and operands that meet them -/

/-- ResetTakesTheConstructedState: `rst` with a command beside it. -/
theorem witness_ResetTakesTheConstructedState :
    ({ withBuf noise3 with pending := [.port true 1#3 0xFF#8] } : State).pending = .port true 1#3 0xFF#8 :: [] := rfl

/-- StepRunsTheDecodedTransaction: nothing pending, a command, a reset. -/
theorem witness_StepRunsTheDecodedTransaction :
    State.reset.pending = []
      ∧ ({ State.reset with pending := [.port false 3#3 0#8] } : State).pending = .port false 3#3 0#8 :: []
      ∧ decodeTransaction (.port false 3#3 0#8) = .run .attempt
      ∧ decodeTransaction (.drainOn [.crcError]) = .resume [.crcError]
      ∧ decodeTransaction (.port true 3#3 0#8) = .reset := by decide

/-- StepRunsTheDecodedFrame: the shortest frame in front of another byte. -/
theorem witness_StepRunsTheDecodedFrame :
    ({ withBuf (frameT1 ++ [0xFF#8]) with pending := [.port false 2#3 0#8] } : State).pending = .port false 2#3 0#8 :: []
      ∧ decode defaultConfig (frameT1 ++ [0xFF#8]) = .ok (.otherType 0xC8#8 0x00#8 [], [0xFF#8]) := by decide +kernel

/-- DecodeOfEncodeIsTheInstruction: the longest and the shortest payload. -/
theorem witness_DecodeOfEncodeIsTheInstruction :
    (Instr.rcChannelsPacked 0xEE#8 (List.replicate 62 0xFF#8)).wf defaultConfig = true
      ∧ (Instr.otherType 0x00#8 0xFF#8 []).wf defaultConfig = true
      ∧ encode defaultConfig (.otherType 0xC8#8 0x00#8 []) = .frame frameT1 := by decide +kernel

/-- DecodedBytesAreTheEncoding. -/
theorem witness_DecodedBytesAreTheEncoding :
    decode defaultConfig frameT1 = .ok (.otherType 0xC8#8 0x00#8 [], []) := by decide +kernel

/-- EveryStepKeepsTheInvariant, ParametersNeverChange: a state with a transaction pending that has the invariant, and steps. -/
theorem witness_EveryStepKeepsTheInvariant :
    ({ State.reset with pending := [.port false 2#3 0#8] } : State).Inv
      ∧ (nextOf (step { State.reset with pending := [.port false 2#3 0#8] })).map (fun t => t.outcome)
        = some (some .waitShort) := by
  refine ⟨⟨by decide, ?_, ?_, ?_, ?_, ?_⟩, by decide +kernel⟩
  all_goals intro _ h; simp [State.reset, State.boot, defaultConfig] at h

/-- ConstructionMeetsTheInvariant. -/
theorem witness_ConstructionMeetsTheInvariant : finiteCfg.wf = true := by decide

/-- BytesEnterAtTheBackAndLeaveAtTheFront, ParametersNeverChange, CountersNeverDecrease: a feed, and a pass that extracts. -/
theorem witness_execution_goes_on :
    (nextOf (exec (.feed noise3) State.reset)).isSome = true
      ∧ summary (exec .mstep (withBuf frameT1)) = some ⟨some (.frameOther 0x00#8), 1, 0, 4, []⟩ := by decide +kernel

/-- StreamIsWhatWasDroppedThenTheBuffer. -/
theorem witness_StreamIsWhatWasDroppedThenTheBuffer :
    (execLog [.feed noise3, .feed frameT1, .attempt, .push 0x11#8] (State.boot defaultConfig)).map
        (fun r => (r.1.buf, r.1.pos, r.2))
      = some ([0x11#8], 7, [.frameOther 0x00#8]) := by decide +kernel

/-- CrcIsLinearWithZeroResidue: two lists of one length. -/
theorem witness_CrcIsLinearWithZeroResidue : [0x01#8, 0x02#8].length = [0xFF#8, 0x80#8].length := by decide

/-- SingleBitFlipIsACrcError: a frame whose check passes, its first covered byte and its last byte. -/
theorem witness_SingleBitFlipIsACrcError :
    front defaultConfig frameT1 = .frame wireT1 ∧ wireT1.crcOk defaultConfig = true ∧ wireT1.size = 4
      ∧ summary (exec .mstep (withBuf (flipBit frameT1 2 7))) = some ⟨some .crcError, 0, 1, 4, []⟩
      ∧ summary (exec .mstep (withBuf (flipBit frameT1 3 0))) = some ⟨some .crcError, 0, 1, 4, []⟩ := by decide +kernel

/-- ShortBufferWaits: no byte, and three. -/
theorem witness_ShortBufferWaits : (withBuf []).buf.length < 4 ∧ (withBuf noise3).buf.length < 4 := by decide

/-- NonAddressIsDiscarded: a neighbour of a member, with exactly four bytes. -/
theorem witness_NonAddressIsDiscarded :
    4 ≤ (withBuf [0xEF#8, 0x02#8, 0x00#8, 0x00#8]).buf.length
      ∧ byteAt (withBuf [0xEF#8, 0x02#8, 0x00#8, 0x00#8]).buf 0 ∉ defaultConfig.addrWhitelist := by decide

/-- OverLengthIsDiscarded: 65 and 255. -/
theorem witness_OverLengthIsDiscarded :
    (4 ≤ [0xC8#8, 0x41#8, 0x00#8, 0x00#8].length ∧ byteAt [0xC8#8, 0x41#8, 0x00#8, 0x00#8] 0 ∈ defaultConfig.addrWhitelist
      ∧ 64 < (byteAt [0xC8#8, 0x41#8, 0x00#8, 0x00#8] 1).toNat)
    ∧ 64 < (byteAt [0xC8#8, 0xFF#8, 0x00#8, 0x00#8] 1).toNat := by decide

/-- UnderLengthFollowsThePolicy: 1 and 0, under both policies. -/
theorem witness_UnderLengthFollowsThePolicy :
    (byteAt [0x00#8, 0x00#8, 0x00#8, 0x00#8] 1).toNat < 2
      ∧ (4 ≤ [0x00#8, 0x01#8, 0x00#8, 0x00#8].length ∧ (byteAt [0x00#8, 0x01#8, 0x00#8, 0x00#8] 1).toNat < 2
        ∧ byteAt [0x00#8, 0x01#8, 0x00#8, 0x00#8] 0 ∈ refuseCfg.addrWhitelist)
      ∧ summary (exec .mstep (withBuf [0x00#8, 0x01#8, 0x00#8, 0x00#8]))
        = some ⟨some .discardLenUnder, 0, 0, 1, [0x01#8, 0x00#8, 0x00#8]⟩
      ∧ refusalOf (exec .mstep (withCfg refuseCfg [0x00#8, 0x01#8, 0x00#8, 0x00#8])) = some .shortLength := by
  decide +kernel

/-- IncompleteFrameWaits: one byte short of 66; and length 3, the least that can miss a byte of 5 with 4 buffered. -/
theorem witness_IncompleteFrameWaits :
    (legalHeader frameS10 64 ∧ frameS10.length < 64 + 2)
      ∧ legalHeader [0xC8#8, 0x03#8, 0x00#8, 0x00#8] 3 ∧ [0xC8#8, 0x03#8, 0x00#8, 0x00#8].length < 3 + 2 := by
  simp only [legalHeader]
  decide +kernel

/-- CrcMismatchCountsAnError: the shortest frame with a wrong CRC byte, and the longest. -/
theorem witness_CrcMismatchCountsAnError :
    (legalHeader [0xC8#8, 0x02#8, 0x16#8, 0xD2#8] 2 ∧ 2 + 2 ≤ [0xC8#8, 0x02#8, 0x16#8, 0xD2#8].length
      ∧ crc8 0x00#8 [0x16#8] ≠ byteAt [0xC8#8, 0x02#8, 0x16#8, 0xD2#8] 3)
    ∧ (legalHeader (frameS10 ++ [0x00#8]) 64 ∧ 64 + 2 ≤ (frameS10 ++ [0x00#8]).length
      ∧ crc8 0x00#8 (0x7F#8 :: (frameS10.drop 3).take 62) ≠ byteAt (frameS10 ++ [0x00#8]) 65) := by
  simp only [legalHeader]
  decide +kernel

/-- CrcMatchRunsTheTypesInstruction: each type, the shortest and the longest frame. -/
theorem witness_CrcMatchRunsTheTypesInstruction :
    (legalHeader [0xC8#8, 0x02#8, 0x16#8, 0xD3#8] 2 ∧ crc8 0x00#8 [0x16#8] = byteAt [0xC8#8, 0x02#8, 0x16#8, 0xD3#8] 3)
    ∧ (legalHeader [0xC8#8, 0x02#8, 0x14#8, 0xAC#8] 2 ∧ crc8 0x00#8 [0x14#8] = byteAt [0xC8#8, 0x02#8, 0x14#8, 0xAC#8] 3)
    ∧ (legalHeader (frameS10 ++ [0xE7#8]) 64 ∧ 64 + 2 ≤ (frameS10 ++ [0xE7#8]).length
      ∧ crc8 0x00#8 (0x7F#8 :: (frameS10.drop 3).take 62) = byteAt (frameS10 ++ [0xE7#8]) 65) := by
  simp only [legalHeader]
  decide +kernel

/-- DecodeOperationsAlwaysComplete, AnAttemptIsThePassAfterTheSyncErrors: the spec's policy. -/
theorem witness_policy : State.reset.cfg.shortLenPolicy = .discardOne := rfl

/-- ADrainEndsQuiescent: a drain in front of another transaction, with nothing between its attempts. -/
theorem witness_ADrainEndsQuiescent :
    ({ withBuf frameT1 with pending := [.drain, .port false 0#3 0#8] } : State).cfg.shortLenPolicy = .discardOne
      ∧ ({ withBuf frameT1 with pending := [.drain, .port false 0#3 0#8] } : State).interleave = []
      ∧ ({ withBuf frameT1 with pending := [.drain, .port false 0#3 0#8] } : State).pending
        = .drain :: [.port false 0#3 0#8] := by decide

/-- APassAdvancesByZeroOneOrTheFrame, APassCountsExactlyTheExtractedFrame: a wait, a discard, an error, the longest frame. -/
theorem witness_passes :
    State.reset.cfg.cntW = none
      ∧ summary (exec .mstep (withBuf noise3)) = some ⟨some .waitShort, 0, 0, 0, noise3⟩
      ∧ summary (exec .mstep (withBuf (noise3 ++ [0x00#8])))
        = some ⟨some .discardAddr, 0, 0, 1, [0x01#8, 0x7E#8, 0x00#8]⟩
      ∧ summary (exec .mstep (withBuf [0xC8#8, 0x02#8, 0x16#8, 0xD2#8])) = some ⟨some .crcError, 0, 1, 4, []⟩
      ∧ summary (exec .mstep (withBuf (frameS10 ++ [0xE7#8]))) = some ⟨some (.frameOther 0x7F#8), 1, 0, 66, []⟩ := by
  decide +kernel

/-- APassCountsExactlyTheExtractedFrame: a counter of 8 bits below its maximum and at it. -/
theorem witness_finite_counters :
    finiteCfg.cntW = some 8
      ∧ (nextOf (exec .mstep { withCfg finiteCfg frameT1 with frameCount := 254 })).map (fun t => t.frameCount) = some 255
      ∧ (nextOf (exec .mstep { withCfg finiteCfg frameT1 with frameCount := 255 })).map (fun t => t.frameCount) = some 255
      ∧ (nextOf (exec .mstep { withCfg finiteCfg [0xC8#8, 0x02#8, 0x16#8, 0xD2#8] with errorCount := 254 })).map
        (fun t => t.errorCount) = some 255
      ∧ (nextOf (exec .mstep { withCfg finiteCfg [0xC8#8, 0x02#8, 0x16#8, 0xD2#8] with errorCount := 255 })).map
        (fun t => t.errorCount) = some 255 := by decide +kernel

/-- AnAttemptRetriesAfterADiscard: a discarding pass, another, and a refused one. -/
theorem witness_AnAttemptRetriesAfterADiscard :
    (nextOf (exec .mstep (withBuf (noise3 ++ [0x00#8])))).map (fun t => t.discarded) = some true
      ∧ (nextOf (exec .mstep (withBuf frameT1))).map (fun t => t.discarded) = some false
      ∧ refusalOf (exec .mstep (withCfg refuseCfg [0x00#8, 0x01#8, 0x00#8, 0x00#8])) = some .shortLength := by
  decide +kernel

/-- ADrainRepeatsTheAttempt: an attempt that waits, one that does not and one that is refused; a drain in progress with a push
to come before its next attempt. -/
theorem witness_ADrainRepeatsTheAttempt :
    (nextOf (exec .attempt (withBuf noise3))).map (fun t => t.waiting) = some true
      ∧ (nextOf (exec .attempt (withBuf (frameT1 ++ frameT1)))).map (fun t => t.waiting) = some false
      ∧ refusalOf (exec .attempt (withCfg refuseCfg [0x00#8, 0x01#8, 0x00#8, 0x00#8])) = some .shortLength
      ∧ (nextOf (step { withBuf frameT1 with
          pending := [.drainOn [.crcError], .port false 1#3 0xC8#8, .drain], interleave := [1, 0] })).map
            (fun t => (t.pending, t.interleave))
        = some ([.port false 1#3 0xC8#8, .drainOn [.crcError, .frameOther 0x00#8], .drain], [0])
      ∧ (nextOf (step { withBuf noise3 with pending := [.drainOn [.crcError]] })).map (fun t => t.answer)
        = some (some (.events [.crcError])) := by decide +kernel

/-- WhatAWaitLeavesIsBounded: both waits, at the most bytes each can leave. -/
theorem witness_WhatAWaitLeavesIsBounded :
    summary (exec .attempt (withBuf noise3)) = some ⟨some .waitShort, 0, 0, 0, noise3⟩
      ∧ summary (exec .mstep (withBuf frameS10)) = some ⟨some .waitIncomplete, 0, 0, 0, frameS10⟩ := by decide +kernel

/-- QuiescenceEndsOnlyByAPush: both kinds of quiescence, and a query. -/
theorem witness_QuiescenceEndsOnlyByAPush :
    (withBuf noise3).quiescent = true ∧ (withBuf frameS10).quiescent = true ∧ instrBytes .getCounters = []
      ∧ (withBuf frameT1).quiescent = false := by decide +kernel

/-- APassIgnoresAppendedBytes: passes that do not wait. -/
theorem witness_APassIgnoresAppendedBytes :
    (nextOf (exec .mstep (withBuf frameT1))).map (fun t => t.waiting) = some false := by decide +kernel

/-- ChunkingDoesNotMatter: the two sequences of the next theorem hold only its operations and push the same stream. -/
theorem witness_ChunkingDoesNotMatter_streams :
    (∀ i ∈ [Instr.push 0xFF#8, .push 0xC8#8, .attempt, .push 0x02#8, .idle, .push 0x00#8, .mstep, .push 0x00#8, .getChannels,
        .mstep, .mstep], isChunkOp i = true)
      ∧ (∀ i ∈ [Instr.push 0xFF#8, .push 0xC8#8, .push 0x02#8, .push 0x00#8, .push 0x00#8, .attempt], isChunkOp i = true)
      ∧ streamOf [.push 0xFF#8, .push 0xC8#8, .attempt, .push 0x02#8, .idle, .push 0x00#8, .mstep, .push 0x00#8, .getChannels,
        .mstep, .mstep]
        = streamOf [.push 0xFF#8, .push 0xC8#8, .push 0x02#8, .push 0x00#8, .push 0x00#8, .attempt] := by decide

/-- ChunkingDoesNotMatter: one byte at a time with passes between, and all pushes first. -/
theorem witness_ChunkingDoesNotMatter :
    (execLog [.push 0xFF#8, .push 0xC8#8, .attempt, .push 0x02#8, .idle, .push 0x00#8, .mstep, .push 0x00#8, .getChannels,
        .mstep, .mstep] State.reset).map (fun r => (r.1.quiescent, r.1.pos, r.2))
        = some (true, 5, [.frameOther 0x00#8])
      ∧ (execLog [.push 0xFF#8, .push 0xC8#8, .push 0x02#8, .push 0x00#8, .push 0x00#8, .attempt] State.reset).map
        (fun r => (r.1.quiescent, r.1.pos, r.2))
        = some (true, 5, [.frameOther 0x00#8]) := by decide +kernel

/-- NoiseDrainsToThreeBytes: vector S8's first bytes, and an empty buffer. -/
theorem witness_NoiseDrainsToThreeBytes :
    (∀ b ∈ (withBuf [0x01#8, 0x02#8, 0x03#8, 0xFF#8, 0x7E#8]).buf, b ∉ defaultConfig.addrWhitelist)
      ∧ ∀ b ∈ (withBuf []).buf, b ∉ defaultConfig.addrWhitelist := by decide

/-- TheDecodePathReadsOnlyTheBuffer: two states that differ in a counter and a register. -/
theorem witness_TheDecodePathReadsOnlyTheBuffer :
    (withBuf frameE1).buf = ({ withBuf frameE1 with frameCount := 7, ch := Vector.replicate 16 5#11 } : State).buf
      ∧ summary (exec .attempt (withBuf frameE1)) = some ⟨some .frameChannels, 1, 0, 26, []⟩
      ∧ summary (exec .attempt { withBuf frameE1 with frameCount := 7, ch := Vector.replicate 16 5#11 })
        = some ⟨some .frameChannels, 8, 0, 26, []⟩
      ∧ summary (exec .mstep (withBuf frameE2)) = some ⟨some .frameLinkStats, 1, 0, 14, []⟩
      ∧ refusalOf (exec .drain (withCfg refuseCfg [0x00#8, 0x01#8, 0x00#8, 0x00#8])) = some .shortLength := by
  decide +kernel

/-- RcFrameWritesAllSixteenChannels, ShortRcPayloadIsSkipped, ByteLevelUnpackingAgrees, PackAndUnpackAreInverse: 22 bytes,
and 21. -/
theorem witness_rc_payloads :
    22 ≤ payloadV3.length ∧ payloadV3.length = 22 ∧ (payloadV3.drop 1).length < 22 := by decide

/-- LinkFrameWritesAllSevenFields, ShortLinkPayloadIsSkipped: 10 bytes, and 9. -/
theorem witness_link_payloads :
    10 ≤ (List.replicate 10 0xFF#8).length ∧ (List.replicate 9 0xFF#8).length < 10 := by decide

/-- ARepeatedFrameCountsTwice: the shortest frame twice. -/
theorem witness_ARepeatedFrameCountsTwice :
    State.reset.cfg.cntW = none
      ∧ front defaultConfig (withBuf (frameT1 ++ frameT1 ++ noise3)).buf = .frame wireT1
      ∧ frameT1.length = wireT1.size ∧ wireT1.crcOk defaultConfig = true := by decide +kernel

/-- OnlyADecodedRcFrameWritesChannels, OnlyADecodedLinkFrameWritesLinkStats: a push; passes and attempts of a drain with other
outcomes. -/
theorem witness_only_decoded_frames_write :
    (nextOf (exec (.push 0x00#8) State.reset)).isSome = true
      ∧ summary (exec .mstep (withBuf frameT1)) = some ⟨some (.frameOther 0x00#8), 1, 0, 4, []⟩
      ∧ (nextOf (exec .drain (withBuf frameE2))).map (fun t => t.outcome) = some (some .frameLinkStats)
      ∧ (nextOf (exec .drain (withBuf frameE1))).map (fun t => t.outcome) = some (some .frameChannels) := by
  decide +kernel

/-- PushAppendsTheByte, PushIntoAFullBufferIsRefused, FeedIsOneAppend: an unbounded buffer, a finite one with one place left,
and a full one. -/
theorem witness_pushes :
    State.reset.cfg.bufCap = none
      ∧ finiteCfg.bufCap = some 66 ∧ (withCfg finiteCfg (List.replicate 65 0#8)).buf.length < 66
      ∧ 66 ≤ (withCfg finiteCfg (List.replicate 66 0#8)).buf.length
      ∧ (nextOf (exec (.push 0x01#8) (withCfg finiteCfg (List.replicate 65 0#8)))).isSome = true
      ∧ 66 < (withCfg finiteCfg (List.replicate 65 0#8)).buf.length + [0x01#8, 0x02#8].length := by decide +kernel

/-- ReservedCommandsAreRefused: the least and the greatest reserved code. -/
theorem witness_ReservedCommandsAreRefused : 4 ≤ (4#3).toNat ∧ 4 ≤ (7#3).toNat := by decide

/-- GetChannelsUsReturnsTheFloor, GetChannelsUsFollowsTheRounding: each rounding. -/
theorem witness_roundings :
    State.reset.cfg.usRound = .floor
      ∧ (State.boot { defaultConfig with usRound := .truncate }).cfg.usRound = .truncate
      ∧ (State.boot { defaultConfig with usRound := .nearest }).cfg.usRound = .nearest := by decide

/-- PortsShowTheState: an outcome with a type byte, and one without. -/
theorem witness_PortsShowTheState :
    outcomePort { State.reset with outcome := some (.frameSkipped 0x16#8) } = 8#4
      ∧ outcomeTypePort { State.reset with outcome := some (.frameSkipped 0x16#8) } = 0x16#8
      ∧ outcomePort { State.reset with outcome := some .crcError } = 5#4 := by decide

/-- BinaryRoundingIsNearestEven: ties to either side, the least denominator; finite numbers and an infinity. -/
theorem witness_BinaryRoundingIsNearestEven :
    roundHalfEven 5 2 = 2 ∧ roundHalfEven 7 2 = 4 ∧ roundHalfEven 8 3 = 3 ∧ roundHalfEven 9 1 = 9
      ∧ binary64Value 0x3FF0000000000000#64 = some 1 ∧ binary64Value 0xBFF8000000000000#64 = some (-3 / 2)
      ∧ binary64Value 0x7FF0000000000000#64 = none := by decide +kernel

/-- BinaryRoundingIsNearestEven: the least rational that overflows, and one just below it. -/
theorem witness_BinaryRoundingIsNearestEven_overflow :
    binary64Of (2 ^ 1024 - 2 ^ 970 : Int) = 0x7FF0000000000000#64
      ∧ binary64Of (2 ^ 1024 - 2 ^ 970 - 1 : Int) = 0x7FEFFFFFFFFFFFFF#64 := by decide +kernel

end Sys2Proof.Tests
end

/-! # Proofs: the state

The parameters stay (`10_state.md` R25). -/

namespace Sys2Proof.Machine

/-! ## What the pushes and a pass answer -/

/-- A push that goes on found room, and appends its byte (`45_host_interface.md` R233). -/
theorem execPush_next {b : Byte} {s t : State} (h : execPush b s = .next t) : hasRoom s = true ∧ t = bufPush b s := by
  unfold execPush at h
  split at h <;> cases h
  exact ⟨‹_›, rfl⟩

/-- A feed that goes on appends its bytes in their order and changes nothing else (`45_host_interface.md` R234). -/
theorem execFeed_next {bytes : List Byte} {s t : State} (h : execFeed bytes s = .next t) :
    t = { s with buf := s.buf ++ bytes } := by
  induction bytes generalizing s with
  | nil => cases h; simp
  | cons b rest ih =>
    unfold execFeed at h
    split at h
    case h_1 u hu =>
      obtain ⟨-, rfl⟩ := execPush_next hu
      rw [ih h]
      simp [bufPush]
    all_goals cases h

/-! ## The parameters stay -/

/-- One pass of the synchronizer keeps the parameters. -/
theorem syncPass_keeps_cfg {s t : State} (h : syncPass s = .next t) : t.cfg = s.cfg := by
  obtain ⟨-, e⟩ | ⟨-, e⟩ | ⟨o, -, -, e, -⟩ | ⟨-, -, e⟩ | ⟨f, -, e⟩ := syncPass_cases s <;> rw [e] at h
  · cases h; rfl
  · cases h; rfl
  · cases h; rfl
  · cases h
  · obtain ⟨-, -, -, -, hcfg, -⟩ := dispatchFrame_next h
    exact hcfg

/-- One attempt of a drain keeps the parameters, whether it ends the drain or leaves the rest of it in the queue. -/
theorem drainAttempt_keeps_cfg {outcomes : List DecodeOutcome} {s t : State} (h : drainAttempt outcomes s = .next t) :
    t.cfg = s.cfg := by
  obtain ⟨u, hu, hend⟩ := drainAttempt_next h
  obtain ⟨-, hcfg, -⟩ := execAttempt_next hu
  obtain ⟨-, rfl⟩ | ⟨-, rfl⟩ := hend
  · exact hcfg
  · exact hcfg

/-- Every instruction that answers a next state keeps the parameters. -/
theorem exec_keeps_cfg (i : Instr) {s t : State} (h : exec i s = .next t) : t.cfg = s.cfg := by
  cases i with
  | rcChannelsPacked addr payload =>
    change execRcChannelsPacked addr payload s = .next t at h
    obtain ⟨-, e⟩ | ⟨-, e⟩ := execRcChannelsPacked_cases addr payload s <;> rw [e] at h <;> cases h <;> rfl
  | linkStatistics addr payload =>
    change execLinkStatistics addr payload s = .next t at h
    obtain ⟨-, e⟩ | ⟨-, e⟩ := execLinkStatistics_cases addr payload s <;> rw [e] at h <;> cases h <;> rfl
  | push b => obtain ⟨-, rfl⟩ := execPush_next h; rfl
  | feed bytes => rw [execFeed_next h]
  | mstep => exact syncPass_keeps_cfg h
  | attempt => obtain ⟨-, hcfg, -⟩ := execAttempt_next h; exact hcfg
  | drain => exact drainAttempt_keeps_cfg h
  | reservedCmd c => cases h
  | otherType | idle | getChannels | getChannelsNorm | getChannelsUs | getLinkStats | getCounters => cases h; rfl

/-- Every step keeps the parameters, an asserted `rst` included. -/
theorem step_keeps_cfg {s t : State} (h : step s = .next t) : t.cfg = s.cfg := by
  obtain ⟨-, rfl⟩ | ⟨x, rest, -, ⟨-, rfl⟩ | ⟨i, -, hrun⟩ | ⟨os, -, hdrain⟩⟩ := step_next h
  · rfl
  · rfl
  · exact (exec_keeps_cfg i hrun).trans (takeTransaction_cfg rest s)
  · exact (drainAttempt_keeps_cfg hdrain).trans (takeTransaction_cfg rest s)

/-- Settles O9: each instruction and each case of a step keeps the field the parameters stand in. -/
theorem parametersNeverChange : Obligations.ParametersNeverChange :=
  ⟨fun i _ _ h => exec_keeps_cfg i h, fun _ _ h => step_keeps_cfg h⟩

end Sys2Proof.Machine

/-! # Proofs: the frame synchronizer

What stands at the front of the buffer fixes the pass (`41_frame_sync.md` R141 to R145), and a pass that does not discard is the
whole attempt (R148). -/

namespace Sys2Proof.Machine

/-! ## The pass of a given front -/

/-- The pass of a short buffer (R141). -/
theorem syncPass_of_short {s : State} (h : front s.cfg s.buf = .short) :
    syncPass s = .next { s with outcome := some .waitShort } := by
  rw [syncPass, h]; rfl

/-- The pass of a legal header with bytes missing (R145). -/
theorem syncPass_of_incomplete {s : State} (h : front s.cfg s.buf = .incomplete) :
    syncPass s = .next { s with outcome := some .waitIncomplete } := by
  rw [syncPass, h]; rfl

/-- The pass of a byte that is no address (R142). -/
theorem syncPass_of_badAddress {s : State} (h : front s.cfg s.buf = .badAddress) :
    syncPass s = .next { s with buf := s.buf.drop 1, pos := s.pos + 1, outcome := some .discardAddr } := by
  rw [syncPass, h]; rfl

/-- The pass of a declared length above 64 (R143). -/
theorem syncPass_of_lengthOver {s : State} (h : front s.cfg s.buf = .lengthOver) :
    syncPass s = .next { s with buf := s.buf.drop 1, pos := s.pos + 1, outcome := some .discardLenOver } := by
  rw [syncPass, h]; rfl

/-! ## `MSTEP` and `ATTEMPT` by the pass -/

/-- `MSTEP` is one pass (R147). -/
theorem exec_mstep (s : State) : exec .mstep s = syncPass s := rfl

/-- An attempt ends at a pass that does not discard, whatever the bound of its loop (R148). -/
theorem attemptLoop_of_not_discarded (n : Nat) {s t : State} (h : syncPass s = .next t) (hd : t.discarded = false) :
    attemptLoop n s = .next t := by
  cases n with
  | zero => exact h
  | succ n => simp [attemptLoop_succ, h, hd]

/-- `ATTEMPT` is its first pass where that pass does not discard (R148). -/
theorem exec_attempt_of_not_discarded {s t : State} (h : syncPass s = .next t) (hd : t.discarded = false) :
    exec .attempt s = .next t :=
  attemptLoop_of_not_discarded s.buf.length h hd

/-! ## The statements -/

/-- Settles O16: a buffer of fewer than 4 bytes reads as short, and the attempt ends at that wait. -/
theorem shortBufferWaits : Obligations.ShortBufferWaits := by
  intro s hlen
  have hpass := syncPass_of_short ((front_short s.cfg s.buf).mpr hlen)
  exact ⟨(exec_mstep s).trans hpass, exec_attempt_of_not_discarded hpass rfl⟩

/-- Settles O17: the address test comes first once 4 bytes are buffered. -/
theorem nonAddressIsDiscarded : Obligations.NonAddressIsDiscarded := by
  intro s hlen haddr
  rw [exec_mstep]
  exact syncPass_of_badAddress ((front_badAddress s.cfg s.buf).mpr ⟨hlen, haddr⟩)

/-- Settles O18: behind a legal address the length is tested against 64 before anything else. -/
theorem overLengthIsDiscarded : Obligations.OverLengthIsDiscarded := by
  intro s hlen haddr hover
  rw [exec_mstep]
  exact syncPass_of_lengthOver ((front_lengthOver s.cfg s.buf).mpr ⟨hlen, haddr, hover⟩)

/-- Settles O20: a legal header with bytes missing reads as incomplete, and the attempt ends at that wait. -/
theorem incompleteFrameWaits : Obligations.IncompleteFrameWaits := by
  intro s hlen haddr hmin hmax hmissing
  have hpass := syncPass_of_incomplete ((front_incomplete s.cfg s.buf).mpr ⟨hlen, haddr, hmin, hmax, hmissing⟩)
  exact ⟨(exec_mstep s).trans hpass, exec_attempt_of_not_discarded hpass rfl⟩

end Sys2Proof.Machine

/-! # Proofs: the dispatch

A complete candidate frame at the front leaves the buffer and is dispatched in the same pass (`41_frame_sync.md` R146): where
its check fails an error is counted (`42_dispatch.md` R172), where it holds the pass is the instruction the frame is (R174). -/

namespace Sys2Proof.Machine

/-! ## The candidate frame at the front -/

/-- The candidate frame at the front of a buffer, each part read at its offset (`30_encoding.md` R80). -/
def candidate (buf : List Byte) : WireFrame where
  address := byteAt buf 0
  length := byteAt buf 1
  type := byteAt buf 2
  payload := sub buf 3 ((byteAt buf 1).toNat - 2)
  crc := byteAt buf ((byteAt buf 1).toNat + 1)

/-- A complete frame behind a legal header is what stands at the front (`41_frame_sync.md` R146). -/
theorem front_eq_candidate {cfg : Config} {buf : List Byte} (hlen : 4 ≤ buf.length)
    (haddr : byteAt buf 0 ∈ cfg.addrWhitelist) (hmin : 2 ≤ (byteAt buf 1).toNat) (hmax : (byteAt buf 1).toNat ≤ 64)
    (hfull : (byteAt buf 1).toNat + 2 ≤ buf.length) : front cfg buf = .frame (candidate buf) :=
  (front_frame cfg buf _).mpr ⟨hlen, haddr, hmin, hmax, hfull, rfl⟩

/-- The candidate's check compares the CRC over type and payload with the trailing byte (`42_dispatch.md` R170, R171). -/
theorem candidate_crcOk (cfg : Config) (buf : List Byte) :
    (candidate buf).crcOk cfg = true ↔
      crc8 cfg.crcInit (byteAt buf 2 :: (buf.drop 3).take ((byteAt buf 1).toNat - 2)) =
        byteAt buf ((byteAt buf 1).toNat + 1) :=
  beq_iff_eq

/-! ## The instruction a frame is -/

/-- Type 0x16 is `RC_CHANNELS_PACKED` (R174). -/
theorem instr_of_rcChannels {f : WireFrame} (h : f.type = 0x16#8) : f.instr = .rcChannelsPacked f.address f.payload :=
  if_pos h

/-- Type 0x14 is `LINK_STATISTICS` (R174). -/
theorem instr_of_linkStatistics {f : WireFrame} (h : f.type = 0x14#8) : f.instr = .linkStatistics f.address f.payload := by
  have hrc : f.type ≠ typeRcChannelsPacked := by rw [h]; decide
  rw [WireFrame.instr, if_neg hrc]
  exact if_pos h

/-- Every other type is the default arm (R174). -/
theorem instr_of_otherType {f : WireFrame} (hrc : f.type ≠ 0x16#8) (hls : f.type ≠ 0x14#8) :
    f.instr = .otherType f.address f.type f.payload :=
  (if_neg hrc).trans (if_neg hls)

/-- `OTHER_TYPE` counts the frame and returns its type byte (R176). -/
theorem exec_otherType (addr type : Byte) (payload : List Byte) (s : State) :
    exec (.otherType addr type payload) s = .next (returnOutcome (.frameOther type) (countFrame s)) := rfl

/-- The dispatch of a frame whose check holds is the frame's instruction (R174, R175). -/
theorem dispatchFrame_eq_exec_instr {f : WireFrame} {s : State} (h : f.crcOk s.cfg = true) :
    dispatchFrame f s = exec f.instr s := by
  rw [dispatchFrame_of_crcOk f s h, WireFrame.instr]
  split
  · rfl
  · split <;> rfl

/-! ## The pass that extracts a frame -/

/-- The pass of a complete candidate frame (`41_frame_sync.md` R146). -/
theorem syncPass_of_frame {s : State} {f : WireFrame} (h : front s.cfg s.buf = .frame f) :
    syncPass s = dispatchFrame f (bufDrop f.size s) := by
  rw [syncPass, h]

/-- `MSTEP` with a frame in front whose check fails: the frame leaves, and the mismatch is raised (R172). -/
theorem exec_mstep_of_not_crcOk {s : State} {f : WireFrame} (hf : front s.cfg s.buf = .frame f)
    (hcrc : f.crcOk s.cfg = false) : exec .mstep s = .next (raiseAnomaly .crcMismatch (bufDrop f.size s)) := by
  rw [exec_mstep, syncPass_of_frame hf, dispatchFrame_of_not_crcOk f (bufDrop f.size s) hcrc]

/-- `MSTEP` with a frame in front whose check holds: the frame leaves, and its instruction runs (R174). -/
theorem exec_mstep_of_crcOk {s : State} {f : WireFrame} (hf : front s.cfg s.buf = .frame f)
    (hcrc : f.crcOk s.cfg = true) : exec .mstep s = exec f.instr (bufDrop f.size s) := by
  rw [exec_mstep, syncPass_of_frame hf]
  exact dispatchFrame_eq_exec_instr hcrc

/-! ## The statements -/

/-- Settles O21: the candidate leaves the buffer, and its failed check is the mismatch anomaly. -/
theorem crcMismatchCountsAnError : Obligations.CrcMismatchCountsAnError := by
  rintro s _ _ rfl rfl hlen haddr hmin hmax hfull hcrc
  have hbad : (candidate s.buf).crcOk s.cfg = false :=
    Bool.eq_false_iff.mpr (mt (candidate_crcOk s.cfg s.buf).mp hcrc)
  exact exec_mstep_of_not_crcOk (front_eq_candidate hlen haddr hmin hmax hfull) hbad

/-- Settles O22: the pass is the candidate's instruction, and the three type cases name that instruction. -/
theorem crcMatchRunsTheTypesInstruction : Obligations.CrcMatchRunsTheTypesInstruction := by
  rintro s _ _ rfl rfl hlen haddr hmin hmax hfull hcrc
  have hpass := exec_mstep_of_crcOk (front_eq_candidate hlen haddr hmin hmax hfull)
    ((candidate_crcOk s.cfg s.buf).mpr hcrc)
  refine ⟨fun hrc => ?_, fun hls => ?_, fun hrc hls => ?_⟩
  · rw [hpass, instr_of_rcChannels hrc]; rfl
  · rw [hpass, instr_of_linkStatistics hls]; rfl
  · rw [hpass, instr_of_otherType hrc hls]; rfl

/-- Settles O42: the frame's arm counts it and returns its type byte, and neither operation touches another field. -/
theorem otherTypeIsOnlyCounted : Obligations.OtherTypeIsOnlyCounted := by
  intro addr type payload s
  rw [exec_otherType, returnOutcome, countFrame]

end Sys2Proof.Machine

/-! # Proofs: the RC channels

The little-endian integer of the first bytes of a list is the sum of the bytes at their weights (`20_memory.md` R52), and each
channel is 11 bits of it (`43_rc_channels.md` R192). -/

namespace Sys2Proof.Machine

/-! ## The little-endian integer as a sum -/

/-- The empty list holds 0 at every offset. -/
@[simp] theorem byteAt_nil (i : Nat) : byteAt [] i = 0#8 := rfl

/-- Offset 0 of a nonempty list. -/
@[simp] theorem byteAt_cons_zero (b : Byte) (l : List Byte) : byteAt (b :: l) 0 = b := rfl

/-- A later offset of a nonempty list. -/
@[simp] theorem byteAt_cons_succ (b : Byte) (l : List Byte) (i : Nat) : byteAt (b :: l) (i + 1) = byteAt l i := rfl

/-- The integer of the first `n` bytes is the sum of the bytes at their weights; bytes past the end of the list add nothing. -/
theorem leNat_take (n : Nat) (l : List Byte) :
    leNat (l.take n) = ∑ i ∈ Finset.range n, (byteAt l i).toNat * 2 ^ (8 * i) := by
  induction n generalizing l with
  | zero => rfl
  | succ n ih =>
    cases l with
    | nil => simp [leNat]
    | cons b rest =>
      have hshift (i : Nat) : (byteAt rest i).toNat * 2 ^ (8 * (i + 1)) = 2 ^ 8 * ((byteAt rest i).toNat * 2 ^ (8 * i)) := by
        rw [Nat.mul_add_one, Nat.pow_add]
        ac_rfl
      rw [List.take_succ_cons, leNat, ih, Finset.sum_range_succ']
      simp [hshift, Finset.mul_sum, Nat.add_comm]

/-! ## The channels of a payload -/

/-- Channel `k` is bits `11k+10` to `11k` of the integer of the first 22 payload bytes (R192). -/
theorem unpack_toNat (payload : List Byte) (k : Fin 16) :
    (unpack payload)[k].toNat = leNat (payload.take 22) / 2 ^ (11 * k.val) % 2048 := by
  simp [unpack, rcPayloadMin, Nat.shiftRight_eq_div_pow]

/-- `RC_CHANNELS_PACKED` with at least 22 payload bytes counts the frame and writes all channels together (R190, R192). -/
theorem exec_rcChannelsPacked (addr : Byte) {payload : List Byte} (s : State) (h : 22 ≤ payload.length) :
    exec (.rcChannelsPacked addr payload) s = .next { s with
      frameCount := counterSucc s.cfg.cntW s.frameCount, ch := unpack payload, outcome := some .frameChannels } := by
  obtain ⟨-, e⟩ | ⟨hshort, -⟩ := execRcChannelsPacked_cases addr payload s
  · exact e
  · omega

/-! ## The statement -/

/-- Settles O36: the channels written are the unpacked payload, whose 176-bit integer is the sum of its first 22 bytes. -/
theorem rcFrameWritesAllSixteenChannels : Obligations.RcFrameWritesAllSixteenChannels := by
  intro addr payload s h
  refine ⟨unpack payload, fun k => ?_, exec_rcChannelsPacked addr s h⟩
  rw [unpack_toNat, leNat_take]

end Sys2Proof.Machine

/-! # Proofs: the link statistics

A link-statistics frame reaches one of two answers by its payload length alone (`44_link_stats.md` R210): the 7 fields are written
together (R212), or the frame is counted and skipped (R211). -/

namespace Sys2Proof.Machine

/-! ## The two answers -/

/-- `LINK_STATISTICS` with at least 10 payload bytes counts the frame and writes the positional map of the payload (R212). -/
theorem exec_linkStatistics (addr : Byte) {payload : List Byte} (s : State) (h : 10 ≤ payload.length) :
    exec (.linkStatistics addr payload) s = .next { s with
      frameCount := counterSucc s.cfg.cntW s.frameCount, ls := lsMap payload, outcome := some .frameLinkStats } := by
  obtain ⟨-, e⟩ | ⟨hshort, -⟩ := execLinkStatistics_cases addr payload s
  · exact e
  · omega

/-- `LINK_STATISTICS` with fewer than 10 payload bytes only counts the frame (R211). -/
theorem exec_linkStatistics_of_short (addr : Byte) {payload : List Byte} (s : State) (h : payload.length < 10) :
    exec (.linkStatistics addr payload) s = .next { s with
      frameCount := counterSucc s.cfg.cntW s.frameCount, outcome := some (.frameSkipped 0x14#8) } := by
  obtain ⟨hlong, -⟩ | ⟨-, e⟩ := execLinkStatistics_cases addr payload s
  · omega
  · exact e

/-! ## The statements -/

/-- Settles O40: the fields written are the positional map, which takes payload bytes 0 to 6 as they are. -/
theorem linkFrameWritesAllSevenFields : Obligations.LinkFrameWritesAllSevenFields := by
  intro addr payload s h
  rw [exec_linkStatistics addr s h, lsMap]

/-- Settles O41: the short-payload case of the frame's arm writes the counter and the outcome alone. -/
theorem shortLinkPayloadIsSkipped : Obligations.ShortLinkPayloadIsSkipped :=
  fun addr _ s h => exec_linkStatistics_of_short addr s h

end Sys2Proof.Machine

/-! # Proofs: the host interface

The commands (`45_host_interface.md` R232 to R236) and the raw queries (R237, R240, R241). A feed is an induction over its bytes:
each push finds room, and appends, or the feed ends there. -/

namespace Sys2Proof.Machine

/-! ## A push, and a feed by its first push -/

/-- An unbounded buffer always has room; a finite one has room below its capacity (`20_memory.md` R67). -/
theorem hasRoom_iff (s : State) : hasRoom s = true ↔ ∀ cap, s.cfg.bufCap = some cap → s.buf.length < cap := by
  unfold hasRoom
  cases s.cfg.bufCap with
  | none => simp
  | some cap => simp

/-- Where there is room a push appends its byte (R233). -/
theorem exec_push_of_room (b : Byte) {s : State} (h : hasRoom s = true) : exec (.push b) s = .next (bufPush b s) :=
  if_pos h

/-- Where there is no room a push is refused (`20_memory.md` R67). -/
theorem exec_push_of_full (b : Byte) {s : State} (h : ¬hasRoom s = true) : exec (.push b) s = .refused .bufferFull :=
  if_neg h

/-- Feeding nothing changes nothing. -/
theorem exec_feed_nil (s : State) : exec (.feed []) s = .next s := rfl

/-- A feed whose first push goes on is the feed of the rest from there (R234). -/
theorem exec_feed_cons {b : Byte} (rest : List Byte) {s t : State} (h : exec (.push b) s = .next t) :
    exec (.feed (b :: rest)) s = exec (.feed rest) t := by
  change execPush b s = .next t at h
  change execFeed (b :: rest) s = execFeed rest t
  rw [execFeed, h]

/-- A feed whose first push is refused is refused for the same reason. -/
theorem exec_feed_cons_of_refused {b : Byte} (rest : List Byte) {s : State} {r : Refusal}
    (h : exec (.push b) s = .refused r) : exec (.feed (b :: rest)) s = .refused r := by
  change execPush b s = .refused r at h
  change execFeed (b :: rest) s = .refused r
  rw [execFeed, h]

/-! ## A feed as a whole -/

/-- A feed into a buffer with room for all of it is one append (R234). -/
theorem exec_feed_of_room (bytes : List Byte) (s : State)
    (hroom : ∀ cap, s.cfg.bufCap = some cap → s.buf.length + bytes.length ≤ cap) :
    exec (.feed bytes) s = .next { s with buf := s.buf ++ bytes } := by
  induction bytes generalizing s with
  | nil => rw [exec_feed_nil, List.append_nil]
  | cons b rest ih =>
    simp only [List.length_cons] at hroom
    have hpush : hasRoom s = true := (hasRoom_iff s).mpr fun cap hcap => by have := hroom cap hcap; omega
    have hrest : ∀ cap, (bufPush b s).cfg.bufCap = some cap → (bufPush b s).buf.length + rest.length ≤ cap := by
      intro cap hcap
      have := hroom cap hcap
      simp only [bufPush_buf, List.length_append, List.length_singleton]
      omega
    rw [exec_feed_cons rest (exec_push_of_room b hpush), ih _ hrest]
    simp [bufPush]

/-- A feed into a finite buffer without room for all of it is refused, whichever of its pushes meets the full buffer (log 15). -/
theorem exec_feed_of_full (bytes : List Byte) (s : State) {cap : Nat} (hcap : s.cfg.bufCap = some cap) (hne : bytes ≠ [])
    (hfull : cap < s.buf.length + bytes.length) : exec (.feed bytes) s = .refused .bufferFull := by
  induction bytes generalizing s with
  | nil => exact absurd rfl hne
  | cons b rest ih =>
    simp only [List.length_cons] at hfull
    by_cases hpush : hasRoom s = true
    · have hlt : s.buf.length < cap := (hasRoom_iff s).mp hpush cap hcap
      have hrest : rest ≠ [] := List.ne_nil_of_length_pos (by omega)
      rw [exec_feed_cons rest (exec_push_of_room b hpush)]
      apply ih (bufPush b s) hcap hrest
      simp only [bufPush_buf, List.length_append, List.length_singleton]
      omega
    · exact exec_feed_cons_of_refused rest (exec_push_of_full b hpush)

/-! ## The reserved commands, and the computed answers -/

/-- A step whose front transaction is an operation performs it once the queue has moved on (`20_memory.md` R58, R60). -/
theorem step_of_run {s : State} {x : Transaction} {rest : List Transaction} {i : Instr} (hp : s.pending = x :: rest)
    (hx : decodeTransaction x = .run i) : step s = exec i (takeTransaction rest s) := by
  simp only [step, hp, hx]

/-- Every state refuses a reserved command (R236). -/
theorem exec_reservedCmd (c : BitVec 2) (s : State) : exec (.reservedCmd c) s = .refused (.reservedCommand c) := rfl

/-- The signed reading of a byte (`00_scope.md` R8) is its two's complement value. -/
theorem signed8_eq_toInt (b : Byte) : signed8 b = b.toInt := by
  rw [signed8, BitVec.toInt_eq_toNat_cond]
  split <;> split <;> omega

/-- The error rate is the quotient of the error count by the frame count, or by 1 where no frame has been counted (R242). -/
theorem errorRateOf_eq_div (errorCount frameCount : Nat) :
    errorRateOf errorCount frameCount = (errorCount : Rat) / (max 1 frameCount : Nat) := by
  rw [errorRateOf, Rat.mkRat_eq_div, Int.cast_natCast]

/-- The error rate is not negative. -/
theorem errorRateOf_nonneg (errorCount frameCount : Nat) : 0 ≤ errorRateOf errorCount frameCount := by
  rw [errorRateOf_eq_div]
  positivity

/-! ## The statements: the commands -/

/-- Settles O50: the first push, the one append and the refusal, each by its lemma above. -/
theorem feedIsOneAppend : Obligations.FeedIsOneAppend :=
  ⟨fun _ rest _ _ h => exec_feed_cons rest h, exec_feed_of_room,
    fun bytes s _ hcap hne hfull => exec_feed_of_full bytes s hcap hne hfull⟩

/-- Settles O46: the command's arm answers the state it is given. -/
theorem idleChangesNothing : Obligations.IdleChangesNothing := fun _ => rfl

/-- Settles O47: the hypothesis is that the buffer has room. -/
theorem pushAppendsTheByte : Obligations.PushAppendsTheByte :=
  fun b s hroom => exec_push_of_room b ((hasRoom_iff s).mpr hroom)

/-- Settles O49: codes 4 to 7 decode to the reserved command, which every state refuses. -/
theorem reservedCommandsAreRefused : Obligations.ReservedCommandsAreRefused := by
  refine ⟨exec_reservedCmd, fun cmd din s rest hcode hp => ⟨cmd.extractLsb' 0 2, ?_⟩⟩
  have hx : decodeTransaction (.port false cmd din) = .run (.reservedCmd (cmd.extractLsb' 0 2)) :=
    congrArg HostAction.run (decodeCommand_reserved cmd din hcode)
  rw [step_of_run hp hx, exec_reservedCmd]

/-! ## The statements: the queries -/

/-- Settles O51: the answer maps each register to its value, and an 11-bit value is below 2048. -/
theorem getChannelsReturnsTheRawValues : Obligations.GetChannelsReturnsTheRawValues := by
  intro s
  refine ⟨s.ch.map BitVec.toNat, fun k => ?_, rfl⟩
  have hk : (s.ch.map BitVec.toNat)[k] = s.ch[k].toNat := Vector.getElem_map ..
  have hlt : s.ch[k].toNat < 2048 := s.ch[k].isLt
  exact ⟨hk, by omega⟩

/-- Settles O55: the report copies six fields and reads `snr` signed. -/
theorem getLinkStatsReturnsTheFields : Obligations.GetLinkStatsReturnsTheFields := by
  intro s
  rw [← signed8_eq_toInt]
  rfl

/-- Settles O56: the answer carries the two counters and the model's error rate. -/
theorem getCountersReturnsTheErrorRate : Obligations.GetCountersReturnsTheErrorRate :=
  fun s => ⟨errorRateOf s.errorCount s.frameCount, errorRateOf_eq_div .., errorRateOf_nonneg .., rfl⟩

end Sys2Proof.Machine

/-! # Proofs: the encoding

A frame built by `FRAME` stands at the front of any list it begins (`30_encoding.md` R94), and a candidate frame whose check holds
is the frame `FRAME` builds of its own fields. The round trips follow in both directions. -/

namespace Sys2Proof.Machine

/-! ## The frame `FRAME` builds -/

/-- The fields of the frame `FRAME(addr, type, payload)` (`30_encoding.md` R80, R94). -/
def builtFrame (cfg : Config) (addr type : Byte) (payload : List Byte) : WireFrame where
  address := addr
  length := BitVec.ofNat 8 (payload.length + 2)
  type := type
  payload := payload
  crc := crc8 cfg.crcInit (type :: payload)

/-- A payload has at most 62 bytes (`30_encoding.md` R80). -/
theorem payloadWf_iff (payload : List Byte) : payloadWf payload = true ↔ payload.length ≤ 62 := by
  simp [payloadWf, minLen, maxLen]

/-- The length byte of a payload within the limits holds the payload's length plus 2 (`30_encoding.md` R81). -/
theorem toNat_lengthByte {payload : List Byte} (hp : payloadWf payload = true) :
    (BitVec.ofNat 8 (payload.length + 2)).toNat = payload.length + 2 := by
  have hlen := (payloadWf_iff payload).mp hp
  rw [BitVec.toNat_ofNat, Nat.mod_eq_of_lt (by omega)]

/-- A built frame passes its own check (`42_dispatch.md` R171). -/
theorem builtFrame_crcOk (cfg : Config) (addr type : Byte) (payload : List Byte) :
    (builtFrame cfg addr type payload).crcOk cfg = true :=
  beq_self_eq_true _

/-- A built frame's size is the length of its bytes. -/
theorem builtFrame_size (cfg : Config) (addr type : Byte) {payload : List Byte} (hp : payloadWf payload = true) :
    (builtFrame cfg addr type payload).size = (frameBytes cfg addr type payload).length := by
  rw [length_frameBytes, WireFrame.size, builtFrame, toNat_lengthByte hp, hdrLen]

/-- The bytes `FRAME` builds, in front of any others, read as the built frame (`41_frame_sync.md` R146). -/
theorem front_frameBytes {cfg : Config} {addr type : Byte} {payload : List Byte} (rest : List Byte)
    (ha : addressWf cfg addr = true) (hp : payloadWf payload = true) :
    front cfg (frameBytes cfg addr type payload ++ rest) = .frame (builtFrame cfg addr type payload) := by
  have hlen := (payloadWf_iff payload).mp hp
  have hL := toNat_lengthByte hp
  have hbytes : frameBytes cfg addr type payload ++ rest = addr :: BitVec.ofNat 8 (payload.length + 2) :: type ::
      (payload ++ crc8 cfg.crcInit (type :: payload) :: rest) := by simp [frameBytes]
  have hcrc : byteAt (payload ++ crc8 cfg.crcInit (type :: payload) :: rest) payload.length =
      crc8 cfg.crcInit (type :: payload) := by simp [byteAt]
  rw [front_frame, hbytes]
  simp only [byteAt_cons_succ, byteAt_cons_zero, hL]
  simp only [List.length_cons, List.length_append]
  refine ⟨by omega, List.contains_iff_mem.mp ha, by omega, by omega, by omega, ?_⟩
  simp [builtFrame, hcrc, sub]

/-! ## The decoder by its front -/

/-- A candidate frame whose check holds decodes to its instruction and leaves the bytes behind it. -/
theorem decode_of_frame {cfg : Config} {buf : List Byte} {f : WireFrame} (hf : front cfg buf = .frame f)
    (hcrc : f.crcOk cfg = true) : decode cfg buf = .ok (f.instr, buf.drop f.size) := by
  simp only [decode, hf, if_pos hcrc]

/-- What decodes is a candidate frame whose check holds. -/
theorem frame_of_decode {cfg : Config} {buf rest : List Byte} {i : Instr} (h : decode cfg buf = .ok (i, rest)) :
    ∃ f, front cfg buf = .frame f ∧ f.crcOk cfg = true ∧ i = f.instr ∧ rest = buf.drop f.size := by
  unfold decode at h
  split at h
  case h_6 f hf =>
    split at h <;> cases h
    exact ⟨f, hf, ‹_›, rfl, rfl⟩
  all_goals cases h

/-- The bytes `FRAME` builds decode to the built frame's instruction and leave the bytes behind them. -/
theorem decode_frameBytes {cfg : Config} {addr type : Byte} {payload : List Byte} (rest : List Byte)
    (ha : addressWf cfg addr = true) (hp : payloadWf payload = true) :
    decode cfg (frameBytes cfg addr type payload ++ rest) = .ok ((builtFrame cfg addr type payload).instr, rest) := by
  rw [decode_of_frame (front_frameBytes rest ha hp) (builtFrame_crcOk cfg addr type payload), builtFrame_size cfg addr type hp,
    List.drop_left]

/-- A candidate frame whose check holds stands in the buffer as the bytes `FRAME` builds of its fields. -/
theorem eq_frameBytes_append_drop {cfg : Config} {buf : List Byte} {f : WireFrame} (hf : front cfg buf = .frame f)
    (hcrc : f.crcOk cfg = true) : buf = frameBytes cfg f.address f.type f.payload ++ buf.drop f.size := by
  obtain ⟨h4, -, hmin, -, hfull, rfl⟩ := (front_frame cfg buf f).mp hf
  obtain ⟨a, len, t, tail, rfl⟩ : ∃ a len t tail, buf = a :: len :: t :: tail := by
    match buf, h4 with
    | a :: len :: t :: tail, _ => exact ⟨a, len, t, tail, rfl⟩
  obtain ⟨n, hn⟩ : ∃ n, len.toNat = n + 2 := ⟨len.toNat - 2, (Nat.sub_add_cancel hmin).symm⟩
  simp only [byteAt_cons_succ, byteAt_cons_zero, hn, List.length_cons] at hfull hcrc ⊢
  have hnt : n < tail.length := by omega
  have hcrc : crc8 cfg.crcInit (t :: tail.take n) = tail[n] := by
    simpa [WireFrame.crcOk, WireFrame.covered, sub, byteAt, hnt] using hcrc
  have hlen : BitVec.ofNat 8 ((tail.take n).length + 2) = len := by
    rw [List.length_take_of_le hnt.le, ← hn, BitVec.ofNat_toNat, BitVec.setWidth_eq]
  simp only [frameBytes, WireFrame.size, hdrLen, sub, hn, Nat.add_sub_cancel, List.drop_succ_cons, List.drop_zero, hlen, hcrc]
  simp

/-! ## The encoder by the frame -/

/-- A frame's instruction is encoded as the bytes `FRAME` builds of its fields. -/
theorem encode_instr (cfg : Config) (f : WireFrame) :
    encode cfg f.instr = .frame (frameBytes cfg f.address f.type f.payload) := by
  unfold WireFrame.instr
  split
  · rw [‹f.type = _›]; rfl
  · split
    · rw [‹f.type = typeLinkStatistics›]; rfl
    · rfl

/-- A frame's instruction is well formed where its address and payload are. -/
theorem wf_instr (cfg : Config) (f : WireFrame) :
    f.instr.wf cfg = (addressWf cfg f.address && payloadWf f.payload) := by
  unfold WireFrame.instr
  split
  · rfl
  · split
    · rfl
    · simp [Instr.wf, *]

/-- A well-formed instruction that is encoded as a frame is the instruction of a frame `FRAME` builds. -/
theorem frame_of_encode {cfg : Config} {i : Instr} {bytes : List Byte} (hwf : i.wf cfg = true)
    (h : encode cfg i = .frame bytes) :
    ∃ addr type payload, bytes = frameBytes cfg addr type payload ∧ addressWf cfg addr = true ∧ payloadWf payload = true ∧
      (builtFrame cfg addr type payload).instr = i := by
  cases i with
  | rcChannelsPacked addr payload =>
    obtain ⟨ha, hp⟩ := Bool.and_eq_true_iff.mp hwf
    cases h
    exact ⟨addr, 0x16#8, payload, rfl, ha, hp, instr_of_rcChannels rfl⟩
  | linkStatistics addr payload =>
    obtain ⟨ha, hp⟩ := Bool.and_eq_true_iff.mp hwf
    cases h
    exact ⟨addr, 0x14#8, payload, rfl, ha, hp, instr_of_linkStatistics rfl⟩
  | otherType addr type payload =>
    simp only [Instr.wf, Bool.and_eq_true, decide_eq_true_eq] at hwf
    obtain ⟨⟨⟨ha, hp⟩, hrc⟩, hls⟩ := hwf
    cases h
    exact ⟨addr, type, payload, rfl, ha, hp, instr_of_otherType hrc hls⟩
  | idle | push | mstep | attempt | reservedCmd | getChannels | getChannelsNorm | getChannelsUs | getLinkStats | getCounters
    | feed | drain => cases h

/-- A reserved command's code keeps the two bits of its operand (`45_host_interface.md` R236). -/
theorem decodeCommand_reservedCode (c : BitVec 2) : decodeCommand (1#1 ++ c) 0#8 = .reservedCmd c := by
  revert c; decide

/-- The transaction an instruction is encoded as runs that instruction. -/
theorem decodeTransaction_encode {cfg : Config} {i : Instr} {x : Transaction} (h : encode cfg i = .transaction x) :
    decodeTransaction x = .run i := by
  cases i with
  | rcChannelsPacked | linkStatistics | otherType => cases h
  | reservedCmd c => cases h; exact congrArg HostAction.run (decodeCommand_reservedCode c)
  | idle | push | mstep | attempt | getChannels | getChannelsNorm | getChannelsUs | getLinkStats | getCounters | feed | drain =>
    cases h; rfl

/-! ## The statements -/

/-- Settles O5: a frame encoding is a built frame, which decodes in front of any bytes; a transaction names its instruction. -/
theorem decodeOfEncodeIsTheInstruction : Obligations.DecodeOfEncodeIsTheInstruction := by
  intro cfg i hwf
  have hframe (bytes rest : List Byte) (h : encode cfg i = .frame bytes) : decode cfg (bytes ++ rest) = .ok (i, rest) := by
    obtain ⟨addr, type, payload, rfl, ha, hp, rfl⟩ := frame_of_encode hwf h
    exact decode_frameBytes rest ha hp
  refine ⟨?_, hframe⟩
  cases henc : encode cfg i with
  | frame bytes =>
    have hwhole : decode cfg bytes = .ok (i, []) := by simpa using hframe bytes [] henc
    simp only [decodeEncoded, hwhole]
  | transaction x => simp only [decodeEncoded, decodeTransaction_encode henc]

/-- Settles O6: what decodes is a candidate frame whose check holds, and that frame is the one `FRAME` builds of its fields. -/
theorem decodedBytesAreTheEncoding : Obligations.DecodedBytesAreTheEncoding := by
  intro cfg buf i rest h
  obtain ⟨f, hf, hcrc, rfl, rfl⟩ := frame_of_decode h
  refine ⟨?_, _, encode_instr cfg f, eq_frameBytes_append_drop hf hcrc⟩
  obtain ⟨-, ha, -, hmax, -, rfl⟩ := (front_frame cfg buf f).mp hf
  have hp : (sub buf 3 ((byteAt buf 1).toNat - 2)).length ≤ 62 := by
    rw [sub, List.length_take]
    omega
  rw [wf_instr, Bool.and_eq_true]
  exact ⟨List.contains_iff_mem.mpr ha, (payloadWf_iff _).mpr hp⟩

/-- Settles O3: what decodes is a candidate frame whose check holds, and its pass runs its instruction. -/
theorem stepRunsTheDecodedFrame : Obligations.StepRunsTheDecodedFrame := by
  intro s din rest i bytes hpending hdecode
  obtain ⟨f, hf, hcrc, rfl, rfl⟩ := frame_of_decode hdecode
  obtain ⟨-, -, -, hsize⟩ := front_frame_size hf
  have hmoved : s.buf.length - (s.buf.drop f.size).length = f.size := by
    rw [List.length_drop]
    omega
  rw [step_of_run hpending rfl, hmoved]
  exact exec_mstep_of_crcOk (s := takeTransaction rest s) hf hcrc

/-- Settles O4: each word is a closed term, and the decoder evaluates it. -/
theorem writtenOutWordsDecode : Obligations.WrittenOutWordsDecode := by
  refine ⟨?_, ?_, ?_, ?_, rfl, rfl, rfl, rfl, rfl⟩ <;> decide +kernel

end Sys2Proof.Machine

/-! # Proofs: the pass and the attempt as data

What a pass does is fixed by the parameters and the buffer (`41_frame_sync.md` R147): how many bytes leave, the outcome, and the
payload a register is written from. An attempt is the same of the first pass that does not discard (R148). -/

namespace Sys2Proof.Machine

/-! ## A pass as data -/

/-- What a pass or an attempt does: the bytes that leave, the outcome, and the payload of the frame it extracts. -/
structure Pass where
  drop : Nat
  outcome : DecodeOutcome
  payload : List Byte

/-- The outcomes with which a frame is counted (`60_exceptions.md` R271, the `FRAME_` outcomes). -/
def DecodeOutcome.isFrame (o : DecodeOutcome) : Bool := !o.isWait && !o.isDiscard && o != .crcError

/-- The state a pass or an attempt leaves: each counter and each register follows the outcome. -/
def Pass.apply (p : Pass) (s : State) : State :=
  { s with
    buf := s.buf.drop p.drop
    pos := s.pos + p.drop
    outcome := some p.outcome
    frameCount := if p.outcome.isFrame then counterSucc s.cfg.cntW s.frameCount else s.frameCount
    errorCount := if p.outcome = .crcError then counterSucc s.cfg.cntW s.errorCount else s.errorCount
    ch := if p.outcome = .frameChannels then unpack p.payload else s.ch
    ls := if p.outcome = .frameLinkStats then lsMap p.payload else s.ls }

/-- The answer of a pass or an attempt; none is a refused short length (`92_eei_decisions.md` D6). -/
def passAnswer (p : Option Pass) (s : State) : Result :=
  match p with
  | some p => .next (p.apply s)
  | none => .refused .shortLength

/-- The outcome of a candidate frame (`42_dispatch.md` R175). -/
def dispatchOutcome (cfg : Config) (f : WireFrame) : DecodeOutcome :=
  if f.crcOk cfg then
    if f.type = typeRcChannelsPacked then
      if rcPayloadMin ≤ f.payload.length then .frameChannels else .frameSkipped f.type
    else if f.type = typeLinkStatistics then
      if lsPayloadMin ≤ f.payload.length then .frameLinkStats else .frameSkipped f.type
    else .frameOther f.type
  else .crcError

/-- What one pass does with a buffer (`41_frame_sync.md` R141 to R146). -/
def passOf (cfg : Config) (buf : List Byte) : Option Pass :=
  match front cfg buf with
  | .short => some ⟨0, .waitShort, []⟩
  | .badAddress => some ⟨1, .discardAddr, []⟩
  | .lengthOver => some ⟨1, .discardLenOver, []⟩
  | .lengthUnder => if cfg.shortLenPolicy = .discardOne then some ⟨1, .discardLenUnder, []⟩ else none
  | .incomplete => some ⟨0, .waitIncomplete, []⟩
  | .frame f => some ⟨f.size, dispatchOutcome cfg f, f.payload⟩

/-- What an attempt does with a buffer (R148): a pass that discards is followed by the attempt on the bytes behind. -/
def attemptOf (cfg : Config) : List Byte → Option Pass
  | [] => passOf cfg []
  | b :: rest =>
    match passOf cfg (b :: rest) with
    | some p => if p.outcome.isDiscard then (attemptOf cfg rest).map fun q => { q with drop := q.drop + 1 } else some p
    | none => none

/-! ### The fields a pass leaves -/

@[simp] theorem Pass.apply_buf (p : Pass) (s : State) : (p.apply s).buf = s.buf.drop p.drop := rfl
@[simp] theorem Pass.apply_pos (p : Pass) (s : State) : (p.apply s).pos = s.pos + p.drop := rfl
@[simp] theorem Pass.apply_outcome (p : Pass) (s : State) : (p.apply s).outcome = some p.outcome := rfl
@[simp] theorem Pass.apply_cfg (p : Pass) (s : State) : (p.apply s).cfg = s.cfg := rfl
@[simp] theorem Pass.apply_answer (p : Pass) (s : State) : (p.apply s).answer = s.answer := rfl
@[simp] theorem Pass.apply_pending (p : Pass) (s : State) : (p.apply s).pending = s.pending := rfl
@[simp] theorem Pass.apply_interleave (p : Pass) (s : State) : (p.apply s).interleave = s.interleave := rfl
@[simp] theorem Pass.apply_freeIdx (p : Pass) (s : State) : (p.apply s).freeIdx = s.freeIdx := rfl
@[simp] theorem Pass.apply_waiting (p : Pass) (s : State) : (p.apply s).waiting = p.outcome.isWait := rfl
@[simp] theorem Pass.apply_discarded (p : Pass) (s : State) : (p.apply s).discarded = p.outcome.isDiscard := rfl
@[simp] theorem Pass.apply_frameCount (p : Pass) (s : State) : (p.apply s).frameCount =
    if p.outcome.isFrame then counterSucc s.cfg.cntW s.frameCount else s.frameCount := rfl
@[simp] theorem Pass.apply_errorCount (p : Pass) (s : State) : (p.apply s).errorCount =
    if p.outcome = .crcError then counterSucc s.cfg.cntW s.errorCount else s.errorCount := rfl
@[simp] theorem Pass.apply_ch (p : Pass) (s : State) : (p.apply s).ch =
    if p.outcome = .frameChannels then unpack p.payload else s.ch := rfl
@[simp] theorem Pass.apply_ls (p : Pass) (s : State) : (p.apply s).ls =
    if p.outcome = .frameLinkStats then lsMap p.payload else s.ls := rfl

/-- A wait is no discard. -/
theorem DecodeOutcome.isDiscard_of_isWait {o : DecodeOutcome} (h : o.isWait = true) : o.isDiscard = false := by
  cases o with
  | waitShort | waitIncomplete => rfl
  | discardAddr | discardLenOver | discardLenUnder | crcError | frameChannels | frameLinkStats | frameSkipped | frameOther =>
    cases h

/-- A wait or a discard moves the buffer and sets the outcome, nothing else. -/
theorem Pass.apply_of_wait_or_discard {p : Pass} (h : p.outcome.isWait = true ∨ p.outcome.isDiscard = true) (s : State) :
    p.apply s = { s with buf := s.buf.drop p.drop, pos := s.pos + p.drop, outcome := some p.outcome } := by
  obtain ⟨n, o, payload⟩ := p
  cases o with
  | waitShort | waitIncomplete | discardAddr | discardLenOver | discardLenUnder => rfl
  | crcError | frameChannels | frameLinkStats | frameSkipped | frameOther =>
    simp [DecodeOutcome.isWait, DecodeOutcome.isDiscard] at h

/-- What is done after a discard is done as well in one go. -/
theorem Pass.apply_apply_discard (p : Pass) {o : DecodeOutcome} (ho : o.isDiscard = true) (s : State) :
    p.apply ((Pass.mk 1 o []).apply s) = ({ p with drop := p.drop + 1 } : Pass).apply s := by
  rw [Pass.apply_of_wait_or_discard (p := ⟨1, o, []⟩) (.inr ho) s]
  simp [Pass.apply, Nat.add_comm, Nat.add_left_comm]

/-! ### The model's pass is this data -/

/-- The dispatch of an extracted frame. -/
theorem dispatchFrame_bufDrop (f : WireFrame) (s : State) :
    dispatchFrame f (bufDrop f.size s) = .next ((Pass.mk f.size (dispatchOutcome s.cfg f) f.payload).apply s) := by
  unfold dispatchFrame dispatchOutcome
  rw [bufDrop_cfg]
  split
  · split
    · unfold execRcChannelsPacked
      split
      · rfl
      · rw [‹f.type = _›]; rfl
    · split
      · unfold execLinkStatistics
        split
        · rfl
        · rw [‹f.type = typeLinkStatistics›]; rfl
      · rfl
  · rfl

/-- The model's pass does what `passOf` says of its buffer (R147). -/
theorem syncPass_eq (s : State) : syncPass s = passAnswer (passOf s.cfg s.buf) s := by
  unfold syncPass passOf
  cases front s.cfg s.buf with
  | short | badAddress | lengthOver | incomplete => rfl
  | lengthUnder => cases s.cfg.shortLenPolicy <;> rfl
  | frame f => exact dispatchFrame_bufDrop f s

/-- A pass that answers did what `passOf` says. -/
theorem passAnswer_next {p : Option Pass} {s t : State} (h : passAnswer p s = .next t) : ∃ q, p = some q ∧ t = q.apply s := by
  cases p with
  | some q => cases h; exact ⟨q, rfl, rfl⟩
  | none => cases h

/-- A pass that answers did what `passOf` says of its buffer. -/
theorem syncPass_next {s t : State} (h : syncPass s = .next t) : ∃ p, passOf s.cfg s.buf = some p ∧ t = p.apply s :=
  passAnswer_next (syncPass_eq s ▸ h)

/-! ### What a pass can be -/

/-- An extracted frame's outcome is no wait. -/
@[simp] theorem dispatchOutcome_isWait (cfg : Config) (f : WireFrame) : (dispatchOutcome cfg f).isWait = false := by
  unfold dispatchOutcome
  repeat' split
  all_goals rfl

/-- An extracted frame's outcome is no discard. -/
@[simp] theorem dispatchOutcome_isDiscard (cfg : Config) (f : WireFrame) : (dispatchOutcome cfg f).isDiscard = false := by
  unfold dispatchOutcome
  repeat' split
  all_goals rfl

/-- An extracted frame's outcome names the right type byte (`60_exceptions.md` R271). -/
theorem dispatchOutcome_typeOk (cfg : Config) (f : WireFrame) : (dispatchOutcome cfg f).typeOk := by
  unfold dispatchOutcome
  repeat' split
  all_goals simp_all [DecodeOutcome.typeOk]

/-- The four kinds of pass: a wait on either ground, a discarded byte, an extracted frame. -/
theorem passOf_cases {cfg : Config} {buf : List Byte} {p : Pass} (h : passOf cfg buf = some p) :
    (front cfg buf = .short ∧ p = ⟨0, .waitShort, []⟩) ∨
    (front cfg buf = .incomplete ∧ p = ⟨0, .waitIncomplete, []⟩) ∨
    (∃ o, isSyncError (front cfg buf) = true ∧ 4 ≤ buf.length ∧ o.isDiscard = true ∧ o.typeOk ∧ p = ⟨1, o, []⟩) ∨
    ∃ f, front cfg buf = .frame f ∧ p = ⟨f.size, dispatchOutcome cfg f, f.payload⟩ := by
  unfold passOf at h
  cases hf : front cfg buf with
  | short => rw [hf] at h; cases h; exact .inl ⟨rfl, rfl⟩
  | incomplete => rw [hf] at h; cases h; exact .inr (.inl ⟨rfl, rfl⟩)
  | badAddress =>
    rw [hf] at h; cases h
    exact .inr (.inr (.inl ⟨.discardAddr, rfl, ((front_badAddress cfg buf).mp hf).1, rfl, True.intro, rfl⟩))
  | lengthOver =>
    rw [hf] at h; cases h
    exact .inr (.inr (.inl ⟨.discardLenOver, rfl, ((front_lengthOver cfg buf).mp hf).1, rfl, True.intro, rfl⟩))
  | lengthUnder =>
    rw [hf] at h
    simp only [Option.ite_none_right_eq_some] at h
    obtain ⟨-, h⟩ := h
    cases h
    exact .inr (.inr (.inl ⟨.discardLenUnder, rfl, ((front_lengthUnder cfg buf).mp hf).1, rfl, True.intro, rfl⟩))
  | frame f => rw [hf] at h; cases h; exact .inr (.inr (.inr ⟨f, rfl, rfl⟩))

/-- A pass that waits found a short buffer or an incomplete frame, and does nothing. -/
theorem passOf_of_wait {cfg : Config} {buf : List Byte} {p : Pass} (h : passOf cfg buf = some p)
    (hw : p.outcome.isWait = true) : (front cfg buf = .short ∧ p = ⟨0, .waitShort, []⟩) ∨
      (front cfg buf = .incomplete ∧ p = ⟨0, .waitIncomplete, []⟩) := by
  obtain hshort | hincomplete | ⟨o, -, -, ho, -, rfl⟩ | ⟨f, -, rfl⟩ := passOf_cases h
  · exact .inl hshort
  · exact .inr hincomplete
  · cases (DecodeOutcome.isDiscard_of_isWait hw).symm.trans ho
  · simp at hw

/-- A pass that discards found a sync error, and drops one byte of at least 4. -/
theorem passOf_of_discard {cfg : Config} {buf : List Byte} {p : Pass} (h : passOf cfg buf = some p)
    (hd : p.outcome.isDiscard = true) :
    isSyncError (front cfg buf) = true ∧ 4 ≤ buf.length ∧ ∃ o, p = ⟨1, o, []⟩ := by
  obtain ⟨-, rfl⟩ | ⟨-, rfl⟩ | ⟨o, hsync, h4, -, -, rfl⟩ | ⟨f, -, rfl⟩ := passOf_cases h
  · cases hd
  · cases hd
  · exact ⟨hsync, h4, o, rfl⟩
  · simp at hd

/-- A pass that neither waits nor discards extracted a frame. -/
theorem passOf_of_frame {cfg : Config} {buf : List Byte} {p : Pass} (h : passOf cfg buf = some p)
    (hw : p.outcome.isWait = false) (hd : p.outcome.isDiscard = false) :
    ∃ f, front cfg buf = .frame f ∧ p = ⟨f.size, dispatchOutcome cfg f, f.payload⟩ := by
  obtain ⟨-, rfl⟩ | ⟨-, rfl⟩ | ⟨o, -, -, ho, -, rfl⟩ | hframe := passOf_cases h
  · cases hw
  · cases hw
  · simp [ho] at hd
  · exact hframe

/-- A pass drops no more than is buffered. -/
theorem passOf_drop_le {cfg : Config} {buf : List Byte} {p : Pass} (h : passOf cfg buf = some p) : p.drop ≤ buf.length := by
  obtain ⟨-, rfl⟩ | ⟨-, rfl⟩ | ⟨o, -, h4, -, -, rfl⟩ | ⟨f, hf, rfl⟩ := passOf_cases h
  · exact Nat.zero_le _
  · exact Nat.zero_le _
  · exact Nat.le_trans (show 1 ≤ 4 by decide) h4
  · obtain ⟨-, -, -, hsize⟩ := front_frame_size hf
    exact hsize

/-- A pass's outcome names the right type byte. -/
theorem passOf_typeOk {cfg : Config} {buf : List Byte} {p : Pass} (h : passOf cfg buf = some p) : p.outcome.typeOk := by
  obtain ⟨-, rfl⟩ | ⟨-, rfl⟩ | ⟨o, -, -, -, hok, rfl⟩ | ⟨f, -, rfl⟩ := passOf_cases h
  · exact True.intro
  · exact True.intro
  · exact hok
  · exact dispatchOutcome_typeOk cfg f

/-- Under the spec's policy for short lengths every buffer has a pass (`60_exceptions.md` R270). -/
theorem passOf_isSome {cfg : Config} (hpolicy : cfg.shortLenPolicy = .discardOne) (buf : List Byte) :
    ∃ p, passOf cfg buf = some p := by
  unfold passOf
  split
  case h_4 => exact ⟨_, if_pos hpolicy⟩
  all_goals exact ⟨_, rfl⟩

/-! ## An attempt as data -/

/-- After a discarding pass the attempt goes on from the state it leaves (R148). -/
theorem exec_attempt_of_discarded {s t : State} (h : syncPass s = .next t) (hd : t.discarded = true) :
    exec .attempt s = exec .attempt t := by
  obtain ⟨h4, hbuf, -⟩ := syncPass_discarded h hd
  obtain ⟨n, hn⟩ : ∃ n, s.buf.length = n + 1 := ⟨s.buf.length - 1, by omega⟩
  have ht : t.buf.length = n := by
    rw [hbuf, List.length_drop, hn]
    rfl
  change attemptLoop s.buf.length s = attemptLoop t.buf.length t
  rw [hn, ht, attemptLoop_succ, h]
  exact if_pos hd

/-- An attempt whose first pass is refused is refused for the same reason (R148). -/
theorem exec_attempt_of_refused {s : State} {r : Refusal} (h : syncPass s = .refused r) : exec .attempt s = .refused r := by
  change attemptLoop s.buf.length s = .refused r
  cases s.buf.length with
  | zero => exact h
  | succ n => rw [attemptLoop_succ, h]

/-- The model's attempt does what `attemptOf` says of its buffer. -/
theorem exec_attempt_eq (s : State) : exec .attempt s = passAnswer (attemptOf s.cfg s.buf) s := by
  induction hbuf : s.buf generalizing s with
  | nil =>
    have hpass := syncPass_of_short ((front_short s.cfg s.buf).mpr (by simp [hbuf]))
    exact exec_attempt_of_not_discarded hpass rfl
  | cons b rest ih =>
    rw [attemptOf]
    cases hp : passOf s.cfg (b :: rest) with
    | none => exact exec_attempt_of_refused (by rw [syncPass_eq, hbuf, hp]; rfl)
    | some p =>
      have hpass : syncPass s = .next (p.apply s) := by rw [syncPass_eq, hbuf, hp]; rfl
      cases hd : p.outcome.isDiscard with
      | false => simpa [hd, passAnswer] using exec_attempt_of_not_discarded hpass hd
      | true =>
        obtain ⟨-, -, o, rfl⟩ := passOf_of_discard hp hd
        rw [exec_attempt_of_discarded hpass hd, ih _ (by simp [hbuf])]
        simp only [if_pos hd, Pass.apply_cfg]
        cases attemptOf s.cfg rest with
        | none => rfl
        | some q => exact congrArg Host.Outcome.next (q.apply_apply_discard hd s)

/-- An attempt that answers did what `attemptOf` says of its buffer. -/
theorem exec_attempt_next {s t : State} (h : exec .attempt s = .next t) :
    ∃ p, attemptOf s.cfg s.buf = some p ∧ t = p.apply s :=
  passAnswer_next (exec_attempt_eq s ▸ h)

/-- What an attempt does: it passes over sync errors, at most all but 3 bytes, and then makes the pass that stands there, which
does not discard. -/
theorem attemptOf_cases (cfg : Config) (buf : List Byte) : ∃ k, k ≤ buf.length - 3 ∧
    (∀ j, j < k → isSyncError (front cfg (buf.drop j)) = true) ∧
    attemptOf cfg buf = (passOf cfg (buf.drop k)).map (fun q => { q with drop := q.drop + k }) ∧
    ∀ q, passOf cfg (buf.drop k) = some q → q.outcome.isDiscard = false := by
  induction buf with
  | nil => exact ⟨0, Nat.zero_le _, by simp, rfl, by rintro q ⟨⟩; rfl⟩
  | cons b rest ih =>
    rw [attemptOf]
    cases hp : passOf cfg (b :: rest) with
    | none => exact ⟨0, Nat.zero_le _, by simp, by simp [hp], by simp [hp]⟩
    | some p =>
      cases hd : p.outcome.isDiscard with
      | false => exact ⟨0, Nat.zero_le _, by simp, by simp [hp, hd], by simpa [hp] using hd⟩
      | true =>
        obtain ⟨k, hk, hsync, hat, hlast⟩ := ih
        obtain ⟨hfront, h4, -⟩ := passOf_of_discard hp hd
        refine ⟨k + 1, ?_, ?_, ?_, hlast⟩
        · rw [List.length_cons] at h4 ⊢
          omega
        · rintro (_ | j) hj
          · exact hfront
          · exact hsync j (by omega)
        · simp only [if_pos hd, hat, Option.map_map, List.drop_succ_cons]
          rfl

end Sys2Proof.Machine

/-! # Proofs: passes, attempts and drains

The statements about the synchronizer, each by the pass as data (`41_frame_sync.md` R147 to R155). -/

namespace Sys2Proof.Machine

/-! ## A pass by its outcome -/

/-- `MSTEP` does what `passOf` says of the buffer. -/
theorem exec_mstep_eq (s : State) : exec .mstep s = passAnswer (passOf s.cfg s.buf) s := syncPass_eq s

/-- A pass over a sync error discards. -/
theorem isDiscard_of_sync {cfg : Config} {buf : List Byte} {p : Pass} (h : passOf cfg buf = some p)
    (hsync : isSyncError (front cfg buf) = true) : p.outcome.isDiscard = true := by
  obtain ⟨hf, -⟩ | ⟨hf, -⟩ | ⟨o, -, -, ho, -, rfl⟩ | ⟨f, hf, -⟩ := passOf_cases h
  · rw [hf] at hsync; cases hsync
  · rw [hf] at hsync; cases hsync
  · exact ho
  · rw [hf] at hsync; cases hsync

/-- A pass that does not wait is the same with any bytes appended (`41_frame_sync.md` section 5). -/
theorem passOf_append {cfg : Config} {buf : List Byte} {p : Pass} (h : passOf cfg buf = some p)
    (hw : p.outcome.isWait = false) (x : List Byte) : passOf cfg (buf ++ x) = some p := by
  have hshort : front cfg buf ≠ .short := by
    intro hf
    rw [passOf, hf] at h
    cases h
    cases hw
  have hincomplete : front cfg buf ≠ .incomplete := by
    intro hf
    rw [passOf, hf] at h
    cases h
    cases hw
  rw [passOf, front_append cfg buf x hshort hincomplete]
  exact h

/-! ## Quiescence -/

/-- A buffer is quiescent where its pass waits (`41_frame_sync.md` R149). -/
theorem quiescent_of_wait {s : State} {p : Pass} (h : passOf s.cfg s.buf = some p) (hw : p.outcome.isWait = true) :
    s.quiescent = true := by
  obtain ⟨hf, -⟩ | ⟨hf, -⟩ := passOf_of_wait h hw <;> simp only [State.quiescent, hf]

/-- The pass of a quiescent state waits and does nothing else. -/
theorem passOf_of_quiescent {s : State} (h : s.quiescent = true) :
    ∃ o, o.isWait = true ∧ passOf s.cfg s.buf = some ⟨0, o, []⟩ := by
  unfold State.quiescent at h
  split at h
  case h_1 hf => exact ⟨.waitShort, rfl, by rw [passOf, hf]⟩
  case h_2 hf => exact ⟨.waitIncomplete, rfl, by rw [passOf, hf]⟩
  all_goals cases h

/-- Quiescence is a matter of the parameters and the buffer. -/
theorem quiescent_congr {s t : State} (hcfg : t.cfg = s.cfg) (hbuf : t.buf = s.buf) : t.quiescent = s.quiescent := by
  rw [State.quiescent, State.quiescent, hcfg, hbuf]

/-! ## An attempt by its last pass -/

/-- An attempt's last pass: it stands behind the bytes passed over, and does not discard. -/
theorem attemptOf_last {cfg : Config} {buf : List Byte} {p : Pass} (h : attemptOf cfg buf = some p) :
    ∃ k q, k ≤ buf.length - 3 ∧ passOf cfg (buf.drop k) = some q ∧ q.outcome.isDiscard = false ∧
      p = { q with drop := q.drop + k } := by
  obtain ⟨k, hk, -, hat, hlast⟩ := attemptOf_cases cfg buf
  rw [hat] at h
  obtain ⟨q, hq, rfl⟩ := Option.map_eq_some_iff.mp h
  exact ⟨k, q, hk, hq, hlast q hq, rfl⟩

/-- An attempt that does not wait drops a frame of at least 4 bytes. -/
theorem attemptOf_drop_ge {cfg : Config} {buf : List Byte} {p : Pass} (h : attemptOf cfg buf = some p)
    (hw : p.outcome.isWait = false) : 4 ≤ p.drop := by
  obtain ⟨k, q, -, hq, hd, rfl⟩ := attemptOf_last h
  obtain ⟨f, hf, rfl⟩ := passOf_of_frame hq hw hd
  obtain ⟨-, h4, -, -⟩ := front_frame_size hf
  exact Nat.le_add_right_of_le h4

/-- An attempt never discards (`92_eei_decisions.md` D8). -/
theorem attemptOf_isDiscard {cfg : Config} {buf : List Byte} {p : Pass} (h : attemptOf cfg buf = some p) :
    p.outcome.isDiscard = false := by
  obtain ⟨k, q, -, -, hd, rfl⟩ := attemptOf_last h
  exact hd

/-- An attempt's outcome names the right type byte. -/
theorem attemptOf_typeOk {cfg : Config} {buf : List Byte} {p : Pass} (h : attemptOf cfg buf = some p) : p.outcome.typeOk := by
  obtain ⟨k, q, -, hq, -, rfl⟩ := attemptOf_last h
  exact passOf_typeOk (p := q) hq

/-- An attempt drops no more than is buffered. -/
theorem attemptOf_drop_le {cfg : Config} {buf : List Byte} {p : Pass} (h : attemptOf cfg buf = some p) :
    p.drop ≤ buf.length := by
  obtain ⟨k, q, hk, hq, -, rfl⟩ := attemptOf_last h
  have hdrop := passOf_drop_le hq
  rw [List.length_drop] at hdrop
  show q.drop + k ≤ buf.length
  omega

/-- An attempt that waits leaves a buffer whose pass waits on the same ground. -/
theorem passOf_after_wait {cfg : Config} {buf : List Byte} {p : Pass} (h : attemptOf cfg buf = some p)
    (hw : p.outcome.isWait = true) : passOf cfg (buf.drop p.drop) = some ⟨0, p.outcome, []⟩ := by
  obtain ⟨k, q, -, hq, -, rfl⟩ := attemptOf_last h
  obtain ⟨-, rfl⟩ | ⟨-, rfl⟩ := passOf_of_wait hq hw <;> simpa using hq

/-- Under the spec's policy for short lengths every buffer has an attempt (`60_exceptions.md` R270). -/
theorem attemptOf_isSome {cfg : Config} (hpolicy : cfg.shortLenPolicy = .discardOne) (buf : List Byte) :
    ∃ p, attemptOf cfg buf = some p := by
  obtain ⟨k, -, -, hat, -⟩ := attemptOf_cases cfg buf
  obtain ⟨q, hq⟩ := passOf_isSome hpolicy (buf.drop k)
  exact ⟨_, by rw [hat, hq]; rfl⟩

/-- A pass made behind `k` dropped bytes, seen from before the drop. -/
theorem passAnswer_dropped (p : Option Pass) (k : Nat) (s : State) :
    passAnswer (p.map fun q => { q with drop := q.drop + k }) s =
      passAnswer p { s with buf := s.buf.drop k, pos := s.pos + k } := by
  cases p with
  | none => rfl
  | some q => simp [passAnswer, Pass.apply, Nat.add_comm, Nat.add_left_comm]

/-! ## A drain by its attempts -/

/-- An attempt that waits ends the drain with its list (R155). -/
theorem drainAttempt_of_wait {s t : State} (os : List DecodeOutcome) (h : exec .attempt s = .next t) (hw : t.waiting = true) :
    drainAttempt os s = .next { t with answer := some (.events os) } := by
  change execAttempt s = .next t at h
  simp only [drainAttempt, h, if_pos hw, returnAnswer]

/-- An attempt that does not wait leaves the rest of the drain in the queue (R155). -/
theorem drainAttempt_of_go {s t : State} (os : List DecodeOutcome) (h : exec .attempt s = .next t) (hw : t.waiting = false) :
    drainAttempt os s = .next { t with
      pending := s.pending.take (s.interleave.headD 0) ++
        .drainOn (os ++ t.outcome.toList) :: s.pending.drop (s.interleave.headD 0)
      interleave := s.interleave.tail } := by
  change execAttempt s = .next t at h
  obtain ⟨-, -, -, hpending, hinterleave, -⟩ := execAttempt_next h
  simp only [drainAttempt, h, if_neg (Bool.eq_false_iff.mp hw), continueDrain, hpending, hinterleave]

/-- A refused attempt refuses the drain (R155). -/
theorem drainAttempt_of_refused {s : State} {r : Refusal} (os : List DecodeOutcome) (h : exec .attempt s = .refused r) :
    drainAttempt os s = .refused r := by
  change execAttempt s = .refused r at h
  simp only [drainAttempt, h]

/-- A step whose front transaction is the rest of a drain makes its next attempt (R155). -/
theorem step_of_resume {s : State} {x : Transaction} {rest : List Transaction} {os : List DecodeOutcome}
    (hp : s.pending = x :: rest) (hx : decodeTransaction x = .resume os) :
    step s = drainAttempt os (takeTransaction rest s) := by
  simp only [step, hp, hx]

/-- An attempt of a drain that answers did what `attemptOf` says; beside the answer and the queue its state is the attempt's. -/
theorem drainAttempt_apply {os : List DecodeOutcome} {s t : State} (h : drainAttempt os s = .next t) :
    ∃ p, attemptOf s.cfg s.buf = some p ∧
      ((p.outcome.isWait = true ∧ t = { p.apply s with answer := some (.events os) }) ∨
        (p.outcome.isWait = false ∧ t = continueDrain (os ++ [p.outcome]) (p.apply s))) := by
  obtain ⟨u, hu, hend⟩ := drainAttempt_next h
  obtain ⟨p, hp, rfl⟩ := exec_attempt_next hu
  exact ⟨p, hp, hend⟩

/-! ## The three decode operations at once -/

/-- The three decode operations. -/
def IsDecodeOp (i : Instr) : Prop := i = .mstep ∨ i = .attempt ∨ i = .drain

/-- What a decode operation does with a buffer: a pass for `MSTEP`, an attempt for `ATTEMPT` and for a `DRAIN`'s first step. -/
def decodePass (i : Instr) (cfg : Config) (buf : List Byte) : Option Pass :=
  if i = .mstep then passOf cfg buf else attemptOf cfg buf

/-- A decode operation whose pass answers: beside the answer and the queue the state is the one the pass leaves. -/
theorem exec_of_decodePass {i : Instr} {s : State} {p : Pass} (hi : IsDecodeOp i)
    (hp : decodePass i s.cfg s.buf = some p) :
    ∃ t, exec i s = .next t ∧ t.block = (p.apply s).block ∧ t.outcome = some p.outcome ∧ t.cfg = s.cfg := by
  obtain rfl | hi := hi
  · have hpass : exec .mstep s = .next (p.apply s) := by rw [exec_mstep_eq]; exact congrArg (passAnswer · s) hp
    exact ⟨_, hpass, rfl, rfl, rfl⟩
  · have hattempt : exec .attempt s = .next (p.apply s) := by
      rw [exec_attempt_eq]
      obtain rfl | rfl := hi <;> exact congrArg (passAnswer · s) hp
    obtain rfl | rfl := hi
    · exact ⟨_, hattempt, rfl, rfl, rfl⟩
    · cases hw : p.outcome.isWait with
      | true => exact ⟨_, drainAttempt_of_wait [] hattempt hw, rfl, rfl, rfl⟩
      | false => exact ⟨_, drainAttempt_of_go [] hattempt hw, rfl, rfl, rfl⟩

/-- A decode operation without a pass is refused. -/
theorem exec_of_decodePass_none {i : Instr} {s : State} (hi : IsDecodeOp i)
    (hp : decodePass i s.cfg s.buf = none) : exec i s = .refused .shortLength := by
  obtain rfl | rfl | rfl := hi
  · rw [exec_mstep_eq]
    exact congrArg (passAnswer · s) hp
  · rw [exec_attempt_eq]
    exact congrArg (passAnswer · s) hp
  · refine drainAttempt_of_refused [] ?_
    rw [exec_attempt_eq]
    exact congrArg (passAnswer · s) hp

/-- A decode operation that answers had a pass, and its state is that pass's beside the answer and the queue. -/
theorem decodePass_of_next {i : Instr} {s t : State} (hi : IsDecodeOp i) (h : exec i s = .next t) :
    ∃ p, decodePass i s.cfg s.buf = some p ∧ t.block = (p.apply s).block ∧ t.outcome = some p.outcome ∧ t.cfg = s.cfg := by
  cases hp : decodePass i s.cfg s.buf with
  | none => cases (exec_of_decodePass_none hi hp).symm.trans h
  | some p =>
    obtain ⟨u, hu, hblock, hout, hcfg⟩ := exec_of_decodePass hi hp
    cases hu.symm.trans h
    exact ⟨p, rfl, hblock, hout, hcfg⟩

/-- A decode operation's pass is a pass or an attempt on the buffer. -/
theorem decodePass_cases {i : Instr} {cfg : Config} {buf : List Byte} {p : Pass} (h : decodePass i cfg buf = some p) :
    passOf cfg buf = some p ∨ attemptOf cfg buf = some p := by
  unfold decodePass at h
  split at h
  · exact .inl h
  · exact .inr h

/-- A decode operation drops no more than is buffered. -/
theorem decodePass_drop_le {i : Instr} {cfg : Config} {buf : List Byte} {p : Pass} (h : decodePass i cfg buf = some p) :
    p.drop ≤ buf.length :=
  (decodePass_cases h).elim passOf_drop_le attemptOf_drop_le

/-! ## The statements: passes -/

/-- Settles O19: a length below 2 reads as such, and the pass follows the policy. -/
theorem underLengthFollowsThePolicy : Obligations.UnderLengthFollowsThePolicy := by
  intro s hlen haddr hunder
  have hf := (front_lengthUnder s.cfg s.buf).mpr ⟨hlen, haddr, hunder⟩
  refine ⟨fun hpolicy => ?_, fun hpolicy => ?_⟩
  · rw [exec_mstep_eq, passOf, hf]
    simp only [if_pos hpolicy]
    rfl
  · rw [exec_mstep_eq, passOf, hf]
    simp [hpolicy, passAnswer]

/-- Settles O24: the four kinds of pass drop nothing, one byte, or the frame. -/
theorem aPassAdvancesByZeroOneOrTheFrame : Obligations.APassAdvancesByZeroOneOrTheFrame := by
  intro s t h
  obtain ⟨p, hp, rfl⟩ := syncPass_next h
  refine ⟨p.outcome, p.drop, rfl, rfl, rfl, fun hw => ?_, fun hd => ?_, fun hw hd => ?_⟩
  · obtain ⟨-, rfl⟩ | ⟨-, rfl⟩ := passOf_of_wait hp hw <;> rfl
  · obtain ⟨-, -, o, rfl⟩ := passOf_of_discard hp hd
    rfl
  · obtain ⟨f, hf, rfl⟩ := passOf_of_frame hp hw hd
    exact front_frame_size hf

/-- A counter's increment: by 1 where it is unbounded or below its maximum, none from there on (`70_reset_and_hazards.md` R319). -/
theorem counterSucc_spec (cntW : Option Nat) (n : Nat) : (cntW = none → counterSucc cntW n = n + 1) ∧
    ∀ w, cntW = some w → (n < 2 ^ w - 1 → counterSucc cntW n = n + 1) ∧ (2 ^ w - 1 ≤ n → counterSucc cntW n = n) := by
  refine ⟨fun h => by rw [h, counterSucc_none], fun w h => ?_⟩
  rw [h, counterSucc]
  exact ⟨fun hlt => if_pos hlt, fun hle => if_neg (Nat.not_lt.mpr hle)⟩

/-- Settles O25: the counters a pass leaves follow its outcome. -/
theorem aPassCountsExactlyTheExtractedFrame : Obligations.APassCountsExactlyTheExtractedFrame := by
  intro s t h
  obtain ⟨p, -, rfl⟩ := syncPass_next h
  refine ⟨p.outcome, rfl, fun hstill => ?_, fun herr => ?_, fun hw hd herr => ?_⟩
  · rw [p.apply_of_wait_or_discard hstill s]
    exact ⟨rfl, rfl⟩
  · rw [Pass.apply_errorCount, if_pos herr, Pass.apply_frameCount, herr]
    exact ⟨rfl, counterSucc_spec s.cfg.cntW s.errorCount⟩
  · have hframe : p.outcome.isFrame = true := by simp [DecodeOutcome.isFrame, hw, hd, herr]
    rw [Pass.apply_errorCount, if_neg herr, Pass.apply_frameCount, if_pos hframe]
    exact ⟨rfl, counterSucc_spec s.cfg.cntW s.frameCount⟩

/-- Settles O32: the pass is the same on the longer buffer, and drops bytes of the shorter one only. -/
theorem aPassIgnoresAppendedBytes : Obligations.APassIgnoresAppendedBytes := by
  intro s t x h hw
  obtain ⟨p, hp, rfl⟩ := syncPass_next h
  rw [exec_mstep_eq, passOf_append hp hw x]
  simp [passAnswer, Pass.apply, List.drop_append_of_le_length (passOf_drop_le hp)]

/-! ## The statements: attempts -/

/-- Settles O26: the loop's case of a discarding pass, of any other, and of a refused one. -/
theorem anAttemptRetriesAfterADiscard : Obligations.AnAttemptRetriesAfterADiscard :=
  fun _ => ⟨fun _ h hd => exec_attempt_of_discarded h hd, fun _ h hd => exec_attempt_of_not_discarded h hd,
    fun _ h => exec_attempt_of_refused h⟩

/-- Settles O27: the attempt's last pass does not discard, so under the spec's policy it stands at no sync error. -/
theorem anAttemptIsThePassAfterTheSyncErrors : Obligations.AnAttemptIsThePassAfterTheSyncErrors := by
  intro s hpolicy
  obtain ⟨k, hk, hsync, hat, hlast⟩ := attemptOf_cases s.cfg s.buf
  refine ⟨k, hk, hsync, ?_, ?_⟩
  · obtain ⟨q, hq⟩ := passOf_isSome hpolicy (s.buf.drop k)
    exact Bool.eq_false_iff.mpr fun hfront => Bool.false_ne_true ((hlast q hq).symm.trans (isDiscard_of_sync hq hfront))
  · rw [exec_attempt_eq, hat, passAnswer_dropped, exec_mstep_eq]

/-- Settles O23: under the spec's policy every buffer has a pass and an attempt, and a drain's attempt returns the attempt's
outcome. -/
theorem decodeOperationsAlwaysComplete : Obligations.DecodeOperationsAlwaysComplete := by
  intro s hpolicy
  obtain ⟨p, hp⟩ := passOf_isSome hpolicy s.buf
  obtain ⟨q, hq⟩ := attemptOf_isSome hpolicy s.buf
  have hattempt : exec .attempt s = .next (q.apply s) := by rw [exec_attempt_eq, hq]; rfl
  have hd := attemptOf_isDiscard hq
  refine ⟨⟨_, _, by rw [exec_mstep_eq, hp]; rfl, rfl⟩, ⟨_, _, hattempt, rfl, hd⟩, ?_⟩
  cases hw : q.outcome.isWait with
  | true => exact ⟨_, _, drainAttempt_of_wait [] hattempt hw, rfl, hd⟩
  | false => exact ⟨_, _, drainAttempt_of_go [] hattempt hw, rfl, hd⟩

/-- A wait leaves a buffer with the same wait in front. -/
theorem passOf_of_returned_wait {i : Instr} {s t : State} {o : DecodeOutcome}
    (hi : IsDecodeOp i) (h : exec i s = .next t) (ho : t.outcome = some o) (hw : o.isWait = true) :
    passOf t.cfg t.buf = some ⟨0, o, []⟩ := by
  obtain ⟨p, hp, hblock, hout, hcfg⟩ := decodePass_of_next hi h
  obtain rfl : p.outcome = o := Option.some_injective _ (hout.symm.trans ho)
  have hbuf : t.buf = s.buf.drop p.drop := congrArg Block.buf hblock
  rw [hcfg, hbuf]
  obtain hp | hp := decodePass_cases hp
  · obtain ⟨-, rfl⟩ | ⟨-, rfl⟩ := passOf_of_wait hp hw <;> exact hp
  · exact passOf_after_wait hp hw

/-- Settles O30: after a wait the front is short, or an incomplete frame, and its bounds are those of the front. -/
theorem whatAWaitLeavesIsBounded : Obligations.WhatAWaitLeavesIsBounded := by
  intro i s t hi h
  refine ⟨fun ho => ?_, fun ho => ?_⟩
  · obtain ⟨hf, -⟩ | ⟨-, hne⟩ := passOf_of_wait (passOf_of_returned_wait hi h ho rfl) rfl
    · exact Nat.le_of_lt_succ ((front_short t.cfg t.buf).mp hf)
    · cases hne
  · obtain ⟨-, hne⟩ | ⟨hf, -⟩ := passOf_of_wait (passOf_of_returned_wait hi h ho rfl) rfl
    · cases hne
    · obtain ⟨h4, -, -, hmax, hmissing⟩ := (front_incomplete t.cfg t.buf).mp hf
      exact ⟨h4, Nat.le_of_lt_succ hmissing, Nat.succ_le_succ hmax⟩

/-- An attempt on a buffer without a whitelisted byte passes over all but its last 3 bytes. -/
theorem attemptOf_noise {cfg : Config} {buf : List Byte} (h : ∀ b ∈ buf, b ∉ cfg.addrWhitelist) :
    attemptOf cfg buf = some ⟨buf.length - 3, .waitShort, []⟩ := by
  induction buf with
  | nil => rfl
  | cons b rest ih =>
    rw [attemptOf]
    by_cases hlen : (b :: rest).length < 4
    · have hnone : (b :: rest).length - 3 = 0 := by omega
      rw [passOf, (front_short cfg (b :: rest)).mpr hlen, hnone]
      rfl
    · have hf := (front_badAddress cfg (b :: rest)).mpr ⟨Nat.le_of_not_lt hlen, h b List.mem_cons_self⟩
      have hrest := ih fun c hc => h c (List.mem_cons_of_mem b hc)
      have hmore : rest.length - 3 + 1 = (b :: rest).length - 3 := by
        rw [List.length_cons] at hlen ⊢
        omega
      rw [passOf, hf, hrest, ← hmore]
      rfl

/-- Settles O34: the attempt drops the noise and waits, and that wait ends the drain. -/
theorem noiseDrainsToThreeBytes : Obligations.NoiseDrainsToThreeBytes := by
  intro s hnoise
  have hattempt : exec .attempt s = .next ((Pass.mk (s.buf.length - 3) .waitShort []).apply s) := by
    rw [exec_attempt_eq, attemptOf_noise hnoise]
    rfl
  exact ⟨hattempt, drainAttempt_of_wait [] hattempt rfl⟩

/-! ## The statements: drains -/

/-- Settles O28: the two ends of an attempt of a drain, and its refusal, for the first attempt and for every resumed one. -/
theorem aDrainRepeatsTheAttempt : Obligations.ADrainRepeatsTheAttempt := by
  refine ⟨fun s t h => ⟨drainAttempt_of_wait [] h, drainAttempt_of_go [] h⟩, fun s r h => drainAttempt_of_refused [] h, ?_⟩
  intro s os rest hpending
  rw [step_of_resume hpending rfl]
  exact ⟨fun t h => ⟨drainAttempt_of_wait os h, drainAttempt_of_go os h⟩, fun r h => drainAttempt_of_refused os h⟩

/-- The state a drain that nothing comes between leaves after an attempt that does not wait. -/
def afterAttempt (os : List DecodeOutcome) (rest : List Transaction) (p : Pass) (s : State) : State :=
  { p.apply (takeTransaction rest s) with pending := .drainOn (os ++ [p.outcome]) :: rest, interleave := [] }

/-- An attempt of a drain that nothing comes between and that does not wait. -/
theorem drainAttempt_uninterrupted {os : List DecodeOutcome} {rest : List Transaction} {p : Pass} {s : State}
    (hp : attemptOf s.cfg s.buf = some p) (hw : p.outcome.isWait = false) (hinterleave : s.interleave = []) :
    drainAttempt os (takeTransaction rest s) = .next (afterAttempt os rest p s) := by
  have hattempt : exec .attempt (takeTransaction rest s) = .next (p.apply (takeTransaction rest s)) :=
    (exec_attempt_eq _).trans (congrArg (passAnswer · _) hp)
  rw [drainAttempt_of_go os hattempt hw, takeTransaction_interleave, hinterleave]
  rfl

/-- Where a step is an attempt of a drain that nothing comes between, the steps that follow end the drain: one for each outcome
and one for the wait. -/
theorem runSteps_of_drainAttempt {s : State} {os : List DecodeOutcome} {rest : List Transaction}
    (hpolicy : s.cfg.shortLenPolicy = .discardOne) (hinterleave : s.interleave = [])
    (hstep : step s = drainAttempt os (takeTransaction rest s)) :
    ∃ t new, runSteps (new.length + 1) s = .next t ∧ t.answer = some (.events (os ++ new)) ∧ t.waiting = true ∧
      t.quiescent = true ∧ t.pending = rest ∧ s.pos + 4 * new.length ≤ t.pos := by
  induction hn : s.buf.length using Nat.strong_induction_on generalizing s os with
  | _ n ih =>
    obtain ⟨p, hp⟩ := attemptOf_isSome hpolicy s.buf
    cases hw : p.outcome.isWait with
    | true =>
      have hattempt : exec .attempt (takeTransaction rest s) = .next (p.apply (takeTransaction rest s)) :=
        (exec_attempt_eq _).trans (congrArg (passAnswer · _) hp)
      rw [drainAttempt_of_wait os hattempt hw] at hstep
      refine ⟨{ p.apply (takeTransaction rest s) with answer := some (.events os) }, [], ?_, ?_, hw, ?_, rfl,
        Nat.le_add_right _ _⟩
      · rw [List.length_nil, runSteps, hstep]
        rfl
      · rw [List.append_nil]
      · exact quiescent_of_wait (passOf_after_wait hp hw) hw
    | false =>
      have h4 := attemptOf_drop_ge hp hw
      have hle := attemptOf_drop_le hp
      rw [drainAttempt_uninterrupted hp hw hinterleave] at hstep
      have hshorter : (afterAttempt os rest p s).buf.length < n := by
        change (s.buf.drop p.drop).length < n
        rw [List.length_drop]
        omega
      obtain ⟨t, new, hrun, hanswer, hwait, hquiet, hrest, hmoved⟩ :=
        ih _ hshorter (s := afterAttempt os rest p s) (os := os ++ [p.outcome]) hpolicy rfl (step_of_resume rfl rfl) rfl
      refine ⟨t, p.outcome :: new, ?_, ?_, hwait, hquiet, hrest, ?_⟩
      · rw [List.length_cons, runSteps, hstep]
        exact hrun
      · rw [hanswer, List.append_assoc, List.singleton_append]
      · change s.pos + p.drop + 4 * new.length ≤ t.pos at hmoved
        rw [List.length_cons]
        omega

/-- Settles O29: the step of a drain at the front is its first attempt, with no outcome listed yet. -/
theorem aDrainEndsQuiescent : Obligations.ADrainEndsQuiescent := by
  intro s rest hpolicy hinterleave hpending
  have hstep : step s = drainAttempt [] (takeTransaction rest s) := step_of_run hpending rfl
  exact runSteps_of_drainAttempt hpolicy hinterleave hstep

/-! ## Quiescent states, and what the decode path reads -/

/-- In a quiescent state a pass and an attempt return the same wait and do nothing else. -/
theorem exec_of_quiescent {s : State} (h : s.quiescent = true) : ∃ o, o.isWait = true ∧
    exec .mstep s = .next { s with outcome := some o } ∧ exec .attempt s = .next { s with outcome := some o } := by
  obtain ⟨o, hw, hp⟩ := passOf_of_quiescent h
  have hpass : exec .mstep s = .next { s with outcome := some o } := by
    rw [exec_mstep_eq, hp]
    exact congrArg Host.Outcome.next (Pass.apply_of_wait_or_discard (p := ⟨0, o, []⟩) (.inl hw) s)
  exact ⟨o, hw, hpass, exec_attempt_of_not_discarded hpass (DecodeOutcome.isDiscard_of_isWait hw)⟩

/-- Settles O35: what a decode operation does is data that the parameters and the buffer fix. -/
theorem theDecodePathReadsOnlyTheBuffer : Obligations.TheDecodePathReadsOnlyTheBuffer := by
  intro i s₁ s₂ hi hbuf hcfg
  have hsame : decodePass i s₂.cfg s₂.buf = decodePass i s₁.cfg s₁.buf := by rw [hbuf, hcfg]
  cases hp : decodePass i s₁.cfg s₁.buf with
  | none =>
    have hrefused := exec_of_decodePass_none hi hp
    refine ⟨fun t₁ h => (nomatch hrefused.symm.trans h), fun r h => ?_⟩
    rw [← h, hrefused]
    exact exec_of_decodePass_none hi (hsame.trans hp)
  | some p =>
    obtain ⟨u₁, hu₁, hblock₁, hout₁, -⟩ := exec_of_decodePass hi hp
    obtain ⟨u₂, hu₂, hblock₂, hout₂, -⟩ := exec_of_decodePass hi (hsame.trans hp)
    refine ⟨fun t₁ h => ?_, fun r h => nomatch hu₁.symm.trans h⟩
    cases hu₁.symm.trans h
    simp only [State.block, Block.mk.injEq, Pass.apply_buf, Pass.apply_pos, Pass.apply_ch, Pass.apply_ls] at hblock₁ hblock₂
    obtain ⟨hbuf₁, hch₁, hls₁, -, -, hpos₁⟩ := hblock₁
    obtain ⟨hbuf₂, hch₂, hls₂, -, -, hpos₂⟩ := hblock₂
    refine ⟨u₂, hu₂, hout₁.trans hout₂.symm, by rw [hbuf₁, hbuf₂, hbuf], by omega, fun ho => ?_, fun ho => ?_⟩
    · have ho : p.outcome = .frameChannels := Option.some_injective _ (hout₁.symm.trans ho)
      rw [hch₁, hch₂, if_pos ho, if_pos ho]
    · have ho : p.outcome = .frameLinkStats := Option.some_injective _ (hout₁.symm.trans ho)
      rw [hls₁, hls₂, if_pos ho, if_pos ho]

end Sys2Proof.Machine

/-! # Proofs: chunking

Passes over the block alone: they ignore appended bytes, and those that do not wait are determined. So pushes may be made before
all passes, and two runs that end quiescent have made the same passes (`41_frame_sync.md` section 5, R151). -/

namespace Sys2Proof.Machine

/-! ## Passes over the block -/

/-- A state with the given block. -/
def Block.toState (cfg : Config) (b : Block) : State :=
  { State.boot cfg with
    buf := b.buf, ch := b.ch, ls := b.ls, frameCount := b.frameCount, errorCount := b.errorCount, pos := b.pos }

/-- The block a pass leaves. -/
def Pass.onBlock (cfg : Config) (p : Pass) (b : Block) : Block := (p.apply (b.toState cfg)).block

/-- The block with bytes appended to its buffer. -/
def Block.append (b : Block) (x : List Byte) : Block := { b with buf := b.buf ++ x }

/-- The outcome of a pass, where it is logged. -/
def Pass.logged (p : Pass) : List DecodeOutcome := [p.outcome].filter fun o => !o.isWait && !o.isDiscard

/-- A sequence of passes that do not wait, with the outcomes logged. -/
inductive Passes (cfg : Config) : Block → List DecodeOutcome → Block → Prop
  | done (b : Block) : Passes cfg b [] b
  | pass {b c : Block} {os : List DecodeOutcome} {p : Pass} (hp : passOf cfg b.buf = some p) (hw : p.outcome.isWait = false)
      (rest : Passes cfg (p.onBlock cfg b) os c) : Passes cfg b (p.logged ++ os) c

/-- A pass writes the same block whatever else the state holds. -/
theorem Pass.apply_block (p : Pass) (s : State) : (p.apply s).block = p.onBlock s.cfg s.block := rfl

theorem Block.append_nil (b : Block) : b.append [] = b := by simp [Block.append]

theorem Block.append_append (b : Block) (x y : List Byte) : (b.append x).append y = b.append (x ++ y) := by
  simp [Block.append]

/-- A pass that does not wait leaves the appended bytes behind what it leaves. -/
theorem Pass.onBlock_append {cfg : Config} {p : Pass} {b : Block} (hp : passOf cfg b.buf = some p) (x : List Byte) :
    p.onBlock cfg (b.append x) = (p.onBlock cfg b).append x := by
  simp [Pass.onBlock, Pass.apply, Block.append, Block.toState, State.block,
    List.drop_append_of_le_length (passOf_drop_le hp)]

namespace Passes

/-- Suffix stability of a sequence of passes. -/
theorem append {cfg : Config} {b c : Block} {os : List DecodeOutcome} (h : Passes cfg b os c) (x : List Byte) :
    Passes cfg (b.append x) os (c.append x) := by
  induction h with
  | done b => exact .done _
  | pass hp hw rest ih => exact .pass (passOf_append hp hw x) hw (Pass.onBlock_append hp x ▸ ih)

theorem trans {cfg : Config} {b c d : Block} {os os' : List DecodeOutcome} (h : Passes cfg b os c)
    (h' : Passes cfg c os' d) : Passes cfg b (os ++ os') d := by
  induction h with
  | done b => exact h'
  | pass hp hw rest ih => rw [List.append_assoc]; exact .pass hp hw (ih h')

/-- Two sequences of passes from one block that both end where the next pass waits are the same. -/
theorem unique {cfg : Config} {b c c' : Block} {os os' : List DecodeOutcome} (h : Passes cfg b os c)
    (h' : Passes cfg b os' c') (hc : ∀ p, passOf cfg c.buf = some p → p.outcome.isWait = true)
    (hc' : ∀ p, passOf cfg c'.buf = some p → p.outcome.isWait = true) : c = c' ∧ os = os' := by
  induction h generalizing os' with
  | done b =>
    cases h' with
    | done => exact ⟨rfl, rfl⟩
    | pass hp hw rest => rw [hc _ hp] at hw; cases hw
  | pass hp hw rest ih =>
    cases h' with
    | done => rw [hc' _ hp] at hw; cases hw
    | pass hp' hw' rest' =>
      cases hp.symm.trans hp'
      obtain ⟨rfl, rfl⟩ := ih rest' hc
      exact ⟨rfl, rfl⟩

end Passes

/-! ## The operations as passes -/

/-- A pass that waits logs nothing and leaves the block; any other is one of the passes. -/
theorem passes_of_pass {s : State} {p : Pass} (hp : passOf s.cfg s.buf = some p) :
    Passes s.cfg s.block p.logged (p.apply s).block := by
  cases hw : p.outcome.isWait with
  | true => obtain ⟨-, rfl⟩ | ⟨-, rfl⟩ := passOf_of_wait hp hw <;> exact .done s.block
  | false =>
    rw [← List.append_nil p.logged, Pass.apply_block]
    exact .pass hp hw (.done _)

/-- The passes of an attempt. -/
theorem passes_of_attempt {s t : State} (h : exec .attempt s = .next t) :
    Passes s.cfg s.block (t.outcome.toList.filter fun o => !o.isWait && !o.isDiscard) t.block := by
  induction hn : s.buf.length using Nat.strong_induction_on generalizing s with
  | _ n ih =>
    cases hp : passOf s.cfg s.buf with
    | none =>
      have hrefused : syncPass s = .refused .shortLength := by rw [syncPass_eq, hp]; rfl
      cases (exec_attempt_of_refused hrefused).symm.trans h
    | some p =>
      have hpass : syncPass s = .next (p.apply s) := by rw [syncPass_eq, hp]; rfl
      cases hd : p.outcome.isDiscard with
      | false =>
        cases (exec_attempt_of_not_discarded hpass hd).symm.trans h
        exact passes_of_pass hp
      | true =>
        rw [exec_attempt_of_discarded hpass hd] at h
        obtain ⟨-, h4, o, rfl⟩ := passOf_of_discard hp hd
        have hshorter : (((Pass.mk 1 o []).apply s).buf).length < n := by
          rw [Pass.apply_buf, List.length_drop]
          change s.buf.length - 1 < n
          omega
        have hlogged : (Pass.mk 1 o []).logged = [] := by
          change o.isDiscard = true at hd
          simp [Pass.logged, hd]
        have hpasses := passes_of_pass hp
        rw [hlogged] at hpasses
        exact hpasses.trans (ih _ hshorter h rfl)

/-- An operation of the chunking statement makes passes over the buffer with its bytes appended. -/
theorem passes_of_exec {i : Instr} {s t : State} (hi : isChunkOp i = true) (h : exec i s = .next t) :
    Passes s.cfg (s.block.append (instrBytes i)) (loggedOutcome i t) t.block := by
  cases i with
  | push b => obtain ⟨-, rfl⟩ := execPush_next h; exact .done _
  | mstep =>
    obtain ⟨p, hp, rfl⟩ := syncPass_next h
    rw [instrBytes, Block.append_nil]
    exact passes_of_pass hp
  | attempt =>
    rw [instrBytes, Block.append_nil]
    exact passes_of_attempt h
  | idle | getChannels | getChannelsNorm | getChannelsUs | getLinkStats | getCounters =>
    cases h
    rw [instrBytes, Block.append_nil]
    exact .done _
  | rcChannelsPacked | linkStatistics | otherType | reservedCmd | feed | drain => cases hi

/-- The stream of a sequence of operations by its first. -/
@[simp] theorem streamOf_cons (i : Instr) (ops : List Instr) : streamOf (i :: ops) = instrBytes i ++ streamOf ops := rfl

/-- A sequence of operations that runs to its end, by its first. -/
theorem execLog_cons {i : Instr} {ops : List Instr} {s t : State} {os : List DecodeOutcome}
    (h : execLog (i :: ops) s = some (t, os)) :
    ∃ u os', exec i s = .next u ∧ execLog ops u = some (t, os') ∧ os = loggedOutcome i u ++ os' := by
  unfold execLog at h
  split at h
  case h_1 u hu =>
    obtain ⟨⟨t', os'⟩, hrest, hout⟩ := Option.map_eq_some_iff.mp h
    cases hout
    exact ⟨u, os', hu, hrest, rfl⟩
  all_goals cases h

/-- A sequence of operations keeps the parameters. -/
theorem execLog_keeps_cfg {ops : List Instr} {s t : State} {os : List DecodeOutcome} (h : execLog ops s = some (t, os)) :
    t.cfg = s.cfg := by
  induction ops generalizing s os with
  | nil => cases h; rfl
  | cons i ops ih =>
    obtain ⟨u, os', hu, hrest, -⟩ := execLog_cons h
    exact (ih hrest).trans (exec_keeps_cfg i hu)

/-- A sequence of operations of the chunking statement makes passes over the buffer with its whole stream appended. -/
theorem passes_of_execLog {ops : List Instr} {s t : State} {os : List DecodeOutcome}
    (hops : ∀ i ∈ ops, isChunkOp i = true) (h : execLog ops s = some (t, os)) :
    Passes s.cfg (s.block.append (streamOf ops)) os t.block := by
  induction ops generalizing s os with
  | nil =>
    cases h
    rw [show streamOf [] = [] from rfl, Block.append_nil]
    exact .done _
  | cons i ops ih =>
    obtain ⟨u, os', hu, hrest, rfl⟩ := execLog_cons h
    have hfirst := (passes_of_exec (hops i List.mem_cons_self) hu).append (streamOf ops)
    have hlater := ih (fun j hj => hops j (List.mem_cons_of_mem i hj)) hrest
    rw [exec_keeps_cfg i hu] at hlater
    rw [Block.append_append] at hfirst
    exact hfirst.trans hlater

/-! ## The statement -/

/-- Settles O33: both sequences make passes over the one buffer with the whole stream appended, up to the same wait. -/
theorem chunkingDoesNotMatter : Obligations.ChunkingDoesNotMatter := by
  intro s t₁ t₂ ops₁ ops₂ os₁ os₂ hops₁ hops₂ hstream h₁ h₂ hq₁ hq₂
  have hends {ops : List Instr} {t : State} {os : List DecodeOutcome} (h : execLog ops s = some (t, os))
      (hq : t.quiescent = true) (p : Pass) (hp : passOf s.cfg t.block.buf = some p) : p.outcome.isWait = true := by
    obtain ⟨o, hw, ho⟩ := passOf_of_quiescent hq
    rw [execLog_keeps_cfg h] at ho
    cases hp.symm.trans ho
    exact hw
  have hpasses₂ := passes_of_execLog hops₂ h₂
  rw [← hstream] at hpasses₂
  exact (passes_of_execLog hops₁ h₁).unique hpasses₂ (hends h₁ hq₁) (hends h₂ hq₂)

end Sys2Proof.Machine

/-! # Proofs: the views and the ports

The normalized and the microsecond view (`45_host_interface.md` R238, R239) as quotients, their ranges, and the output ports
(R231). -/

namespace Sys2Proof.Machine

/-! ## The normalized view -/

/-- A channel value is at most 2047 (`10_state.md` R21). -/
theorem channel_le (c : Channel) : c.toNat ≤ 2047 := Nat.le_of_lt_succ c.isLt

/-- The normalized view is the exact quotient (R238). -/
theorem normOf_eq_div (c : Channel) : normOf c = ((c.toNat : Rat) - 992) / 819 := by
  rw [normOf, Rat.mkRat_eq_div, normCenter, normSpan]
  push_cast
  rfl

/-- The normalized view between its values at raw 0 and raw 2047. -/
theorem normOf_bounds (c : Channel) : (-992 / 819 : Rat) ≤ normOf c ∧ normOf c ≤ 1055 / 819 := by
  have h : (c.toNat : Rat) ≤ 2047 := by exact_mod_cast channel_le c
  have h0 : (0 : Rat) ≤ c.toNat := Nat.cast_nonneg _
  rw [normOf_eq_div]
  constructor <;> linarith

/-! ## The microsecond view -/

/-- The microsecond view with every constant in figures (R239). -/
theorem usOf_eq (r : UsRound) (c : Channel) :
    usOf r c = 1000 + roundQuotient r (((c.toNat : Int) - 172) * 1000) 1639 := rfl

/-- The floor rounding is the integer quotient. -/
theorem roundQuotient_floor (n : Int) {d : Int} (hd : 0 ≤ d) : roundQuotient .floor n d = n / d :=
  Int.fdiv_eq_ediv_of_nonneg n hd

/-- Rounding to nearest is the integer quotient of twice the numerator and the denominator by twice the denominator. -/
theorem roundQuotient_nearest (n : Int) {d : Int} (hd : 0 ≤ d) : roundQuotient .nearest n d = (2 * n + d) / (2 * d) :=
  Int.fdiv_eq_ediv_of_nonneg (2 * n + d) (by omega)

/-- Rounding to nearest leaves at most a half. -/
theorem roundQuotient_nearest_error (n : Int) {d : Int} (hd : 0 < d) :
    |(roundQuotient .nearest n d : Rat) - n / d| ≤ 1 / 2 := by
  rw [roundQuotient_nearest n hd.le]
  have h2 : 0 < 2 * d := by omega
  have hlo : (2 * d : Rat) * ((2 * n + d) / (2 * d) : Int) ≤ 2 * n + d := by
    exact_mod_cast Int.mul_ediv_self_le h2.ne'
  have hhi : (2 * n + d : Rat) < 2 * d * ((2 * n + d) / (2 * d) : Int) + 2 * d := by
    exact_mod_cast Int.lt_mul_ediv_self_add h2
  have hd : (0 : Rat) < d := by exact_mod_cast hd
  generalize ((2 * n + d) / (2 * d) : Int) = q at hlo hhi ⊢
  have hbelow : (q : Rat) ≤ n / d + 1 / 2 := by
    rw [← sub_le_iff_le_add, le_div_iff₀ hd]
    linarith
  have habove : (n / d : Rat) ≤ q + 1 / 2 := by
    rw [div_le_iff₀ hd]
    linarith
  exact abs_le.mpr ⟨by linarith, by linarith⟩

/-- The microsecond view lies in 895 to 2144 under every rounding; 2144 is reached by rounding to nearest only. -/
theorem usOf_bounds (r : UsRound) (c : Channel) : 895 ≤ usOf r c ∧ usOf r c ≤ 2144 := by
  have h := channel_le c
  rw [usOf_eq]
  cases r with
  | floor => rw [roundQuotient_floor _ (by decide)]; omega
  | truncate =>
    have hsign : Int.sign 1639 = 1 := rfl
    rw [roundQuotient, Int.tdiv_eq_ediv, hsign]
    split <;> omega
  | nearest => rw [roundQuotient_nearest _ (by decide)]; omega

/-! ## The statements: the computed queries -/

/-- Settles O52: the answer maps each register to its normalized view. -/
theorem getChannelsNormReturnsTheExactRationals : Obligations.GetChannelsNormReturnsTheExactRationals :=
  fun s => ⟨s.ch.map normOf, fun k => (Vector.getElem_map ..).trans (normOf_eq_div s.ch[k]), rfl⟩

/-- Settles O53: the answer maps each register to its microsecond view, whose integer quotient is the floor of the exact one. -/
theorem getChannelsUsReturnsTheFloor : Obligations.GetChannelsUsReturnsTheFloor := by
  intro s hround
  refine ⟨s.ch.map (usOf .floor), fun k => ?_, by rw [← hround]; rfl⟩
  have hk : (s.ch.map (usOf .floor))[k] = usOf .floor s.ch[k] := Vector.getElem_map ..
  have hquotient : ((s.ch[k].toNat : Rat) - 172) * 1000 / 1639 =
      ((((s.ch[k].toNat : Int) - 172) * 1000 : Int) : Rat) / (1639 : Nat) := by push_cast; rfl
  rw [hk, usOf_eq, roundQuotient_floor _ (by decide), hquotient, Rat.floor_intCast_div_natCast]
  rfl

/-- Settles O54: under each rounding the answer maps each register to its microsecond view. -/
theorem getChannelsUsFollowsTheRounding : Obligations.GetChannelsUsFollowsTheRounding := by
  intro s
  refine ⟨s.ch.map (usOf s.cfg.usRound), rfl, fun k => ?_⟩
  have hk : (s.ch.map (usOf s.cfg.usRound))[k] = usOf s.cfg.usRound s.ch[k] := Vector.getElem_map ..
  rw [hk, usOf_eq]
  refine ⟨fun hround => by rw [hround]; rfl, fun hround => ?_⟩
  have herror := roundQuotient_nearest_error (((s.ch[k].toNat : Int) - 172) * 1000) (d := 1639) (by decide)
  rw [hround, add_sub_cancel_left]
  push_cast at herror
  exact herror

/-- Settles O57: each threshold is where the numerator of the view's quotient passes the multiple of its denominator. -/
theorem unclampedViewsLeaveTheirRanges : Obligations.UnclampedViewsLeaveTheirRanges := by
  intro c
  have h := channel_le c
  have hlow : normOf c < -1 ↔ c.toNat < 173 := by
    rw [normOf_eq_div, div_lt_iff₀ (by norm_num), sub_lt_iff_lt_add]
    norm_num
  have hhigh : 1 < normOf c ↔ 1811 < c.toNat := by
    rw [normOf_eq_div, lt_div_iff₀ (by norm_num), lt_sub_iff_add_lt]
    norm_num
  rw [usOf_eq, roundQuotient_floor _ (by decide)]
  refine ⟨hlow, hhigh, ?_, ?_, ?_, ?_⟩ <;> omega

/-! ## The statements: the ports -/

/-- A microsecond value fits the 12 bits of its port (R231). -/
theorem toNat_usPort (r : UsRound) (c : Channel) : ((BitVec.ofInt 12 (usOf r c)).toNat : Int) = usOf r c := by
  obtain ⟨hlo, hhi⟩ := usOf_bounds r c
  rw [BitVec.toNat_ofInt]
  omega

/-- Settles O58: each port is a copy of its field, and the microsecond values fit theirs. -/
theorem portsShowTheState : Obligations.PortsShowTheState := by
  intro s
  refine ⟨rfl, fun k => ?_, rfl, rfl, rfl, rfl, rfl, rfl, rfl, rfl, rfl, fun o ho => ?_, fun t ht => ?_⟩
  · have hk : s.ports.chUs[k] = BitVec.ofInt 12 (usOf s.cfg.usRound s.ch[k]) := Vector.getElem_map ..
    rw [hk, toNat_usPort]
  · simp only [State.ports, outcomePort, ho]
  · obtain ht | ht := ht <;> simp only [State.ports, outcomeTypePort, ht] <;> rfl

/-- The port shows the code of the last outcome (`60_exceptions.md` R271). -/
theorem outcomePort_of_outcome (s : State) (o : DecodeOutcome) : outcomePort { s with outcome := some o } = o.code := rfl

/-- Settles O59: the port shows the outcome's code, and the codes are the table's. -/
theorem outcomeCodesAreTheTable : Obligations.OutcomeCodesAreTheTable := by
  intro s t
  simp only [outcomePort_of_outcome]
  exact ⟨rfl, rfl, rfl, rfl, rfl, rfl, rfl, rfl, rfl, rfl⟩

end Sys2Proof.Machine

/-! # Proofs: what an operation leaves

What any operation can do to the block, said once; and from it the stream (`10_state.md` R27), the counters (R35) and the registers
(R31), and a repeated frame. -/

namespace Sys2Proof.Machine

/-! ## The block after an operation -/

/-- The operation does what the pass `p` does, beside the answer and the queue: a decode operation, or a frame's instruction,
whose pass drops nothing; and it may write the registers the pass's outcome names. -/
structure ActsAsPass (i : Instr) (p : Pass) (s t : State) : Prop where
  bytes : instrBytes i = []
  drop_le : p.drop ≤ s.buf.length
  block : t.block = (p.apply s).block
  outcome : t.outcome = some p.outcome
  moves : IsDecodeOp i ∨ p.drop = 0
  channels : p.outcome = .frameChannels → (∃ addr payload, i = .rcChannelsPacked addr payload) ∨ IsDecodeOp i
  linkStats : p.outcome = .frameLinkStats → (∃ addr payload, i = .linkStatistics addr payload) ∨ IsDecodeOp i

/-- A decode operation does what its pass does. -/
theorem actsAsPass_of_decodeOp {i : Instr} {s t : State} (hi : IsDecodeOp i) (h : exec i s = .next t) :
    ∃ p, ActsAsPass i p s t := by
  obtain ⟨p, hp, hblock, hout, -⟩ := decodePass_of_next hi h
  have hbytes : instrBytes i = [] := by obtain rfl | rfl | rfl := hi <;> rfl
  exact ⟨p, hbytes, decodePass_drop_le hp, hblock, hout, .inl hi, fun _ => .inr hi, fun _ => .inr hi⟩

/-- What an operation does to the block: it appends its bytes, or it acts as a pass. -/
theorem exec_next_block {i : Instr} {s t : State} (h : exec i s = .next t) :
    t.block = { s.block with buf := s.buf ++ instrBytes i } ∨ ∃ p, ActsAsPass i p s t := by
  cases i with
  | mstep => exact .inr (actsAsPass_of_decodeOp (.inl rfl) h)
  | attempt => exact .inr (actsAsPass_of_decodeOp (.inr (.inl rfl)) h)
  | drain => exact .inr (actsAsPass_of_decodeOp (.inr (.inr rfl)) h)
  | rcChannelsPacked addr payload =>
    change execRcChannelsPacked addr payload s = .next t at h
    obtain ⟨-, e⟩ | ⟨-, e⟩ := execRcChannelsPacked_cases addr payload s <;> rw [e] at h <;> cases h
    · have hrc : ∃ a q, Instr.rcChannelsPacked addr payload = .rcChannelsPacked a q := ⟨addr, payload, rfl⟩
      exact .inr ⟨⟨0, .frameChannels, payload⟩, rfl, Nat.zero_le _, rfl, rfl, .inr rfl, fun _ => .inl hrc, nofun⟩
    · exact .inr ⟨⟨0, .frameSkipped _, payload⟩, rfl, Nat.zero_le _, rfl, rfl, .inr rfl, nofun, nofun⟩
  | linkStatistics addr payload =>
    change execLinkStatistics addr payload s = .next t at h
    obtain ⟨-, e⟩ | ⟨-, e⟩ := execLinkStatistics_cases addr payload s <;> rw [e] at h <;> cases h
    · have hls : ∃ a q, Instr.linkStatistics addr payload = .linkStatistics a q := ⟨addr, payload, rfl⟩
      exact .inr ⟨⟨0, .frameLinkStats, payload⟩, rfl, Nat.zero_le _, rfl, rfl, .inr rfl, nofun, fun _ => .inl hls⟩
    · exact .inr ⟨⟨0, .frameSkipped _, payload⟩, rfl, Nat.zero_le _, rfl, rfl, .inr rfl, nofun, nofun⟩
  | otherType addr type payload =>
    cases h
    exact .inr ⟨⟨0, .frameOther type, payload⟩, rfl, Nat.zero_le _, rfl, rfl, .inr rfl, nofun, nofun⟩
  | push b => obtain ⟨-, rfl⟩ := execPush_next h; exact .inl rfl
  | feed bytes => rw [execFeed_next h]; exact .inl rfl
  | reservedCmd c => cases h
  | idle | getChannels | getChannelsNorm | getChannelsUs | getLinkStats | getCounters =>
    cases h
    rw [instrBytes, List.append_nil]
    exact .inl rfl

/-! ## The stream -/

/-- Settles O10: an append drops nothing, and a pass appends nothing. -/
theorem bytesEnterAtTheBackAndLeaveAtTheFront : Obligations.BytesEnterAtTheBackAndLeaveAtTheFront := by
  intro i s t h
  obtain hblock | ⟨p, hp⟩ := exec_next_block h
  · exact ⟨0, Nat.zero_le _, congrArg Block.buf hblock, congrArg Block.pos hblock⟩
  · rw [hp.bytes, List.append_nil]
    exact ⟨p.drop, hp.drop_le, congrArg Block.buf hp.block, congrArg Block.pos hp.block⟩

/-- A sequence of operations drops some bytes of the buffer and its stream, in order, and moves the position by their number. -/
theorem execLog_buf {ops : List Instr} {s t : State} {os : List DecodeOutcome} (h : execLog ops s = some (t, os)) :
    ∃ n, n ≤ (s.buf ++ streamOf ops).length ∧ t.buf = (s.buf ++ streamOf ops).drop n ∧ t.pos = s.pos + n := by
  induction ops generalizing s os with
  | nil =>
    cases h
    exact ⟨0, Nat.zero_le _, (List.append_nil _).symm, rfl⟩
  | cons i ops ih =>
    obtain ⟨u, os', hu, hrest, -⟩ := execLog_cons h
    obtain ⟨m, hm, hbuf, hpos⟩ := bytesEnterAtTheBackAndLeaveAtTheFront i s u hu
    obtain ⟨n, hn, hbuf', hpos'⟩ := ih hrest
    have hmoved : u.buf ++ streamOf ops = (s.buf ++ streamOf (i :: ops)).drop m := by
      rw [hbuf, streamOf_cons, ← List.append_assoc, List.drop_append_of_le_length hm]
    rw [hmoved] at hn hbuf'
    have hlonger : m ≤ (s.buf ++ streamOf (i :: ops)).length := by
      rw [streamOf_cons, ← List.append_assoc, List.length_append]
      omega
    rw [List.length_drop] at hn
    exact ⟨m + n, by omega, by rw [hbuf', List.drop_drop], by rw [hpos', hpos, Nat.add_assoc]⟩

/-- Settles O11: from an empty buffer at position 0, what has been dropped is the first `pos` bytes of the stream. -/
theorem streamIsWhatWasDroppedThenTheBuffer : Obligations.StreamIsWhatWasDroppedThenTheBuffer := by
  intro cfg ops t os h
  obtain ⟨n, hn, hbuf, hpos⟩ := execLog_buf h
  rw [boot_buf, List.nil_append] at hn hbuf
  rw [boot_pos, Nat.zero_add] at hpos
  rw [hpos, hbuf, List.take_append_drop]
  exact ⟨hn, rfl⟩

/-! ## The counters and the registers -/

/-- Settles O12: an append keeps the counters, and a pass keeps each or increments it. -/
theorem countersNeverDecrease : Obligations.CountersNeverDecrease := by
  intro i s t h
  obtain hblock | ⟨p, hp⟩ := exec_next_block h
  · exact ⟨(congrArg Block.frameCount hblock).ge, (congrArg Block.errorCount hblock).ge⟩
  · have hframe : t.frameCount = (p.apply s).frameCount := congrArg Block.frameCount hp.block
    have herror : t.errorCount = (p.apply s).errorCount := congrArg Block.errorCount hp.block
    rw [hframe, herror, Pass.apply_frameCount, Pass.apply_errorCount]
    constructor
    · split
      · exact le_counterSucc _ _
      · exact le_rfl
    · split
      · exact le_counterSucc _ _
      · exact le_rfl

/-- Settles O44: a pass writes the channels with the outcome `FRAME_CHANNELS` only. -/
theorem onlyADecodedRcFrameWritesChannels : Obligations.OnlyADecodedRcFrameWritesChannels := by
  intro i s t h
  obtain hblock | ⟨p, hp⟩ := exec_next_block h
  · have hch : t.ch = s.ch := congrArg Block.ch hblock
    exact ⟨fun _ _ _ _ => hch, fun _ => hch⟩
  · have hch : p.outcome ≠ .frameChannels → t.ch = s.ch := fun hne =>
      (congrArg Block.ch hp.block).trans (if_neg hne)
    refine ⟨fun hrc hm ha hd => hch fun ho => ?_, fun hne => hch fun ho => hne (by rw [hp.outcome, ho])⟩
    exact (hp.channels ho).elim (fun ⟨addr, payload, hi⟩ => hrc addr payload hi) fun hi => hi.elim hm fun hi => hi.elim ha hd

/-- Settles O45: a pass writes the link statistics with the outcome `FRAME_LINK_STATS` only. -/
theorem onlyADecodedLinkFrameWritesLinkStats : Obligations.OnlyADecodedLinkFrameWritesLinkStats := by
  intro i s t h
  obtain hblock | ⟨p, hp⟩ := exec_next_block h
  · have hls : t.ls = s.ls := congrArg Block.ls hblock
    exact ⟨fun _ _ _ _ => hls, fun _ => hls⟩
  · have hls : p.outcome ≠ .frameLinkStats → t.ls = s.ls := fun hne =>
      (congrArg Block.ls hp.block).trans (if_neg hne)
    refine ⟨fun hlink hm ha hd => hls fun ho => ?_, fun hne => hls fun ho => hne (by rw [hp.outcome, ho])⟩
    exact (hp.linkStats ho).elim (fun ⟨addr, payload, hi⟩ => hlink addr payload hi) fun hi => hi.elim hm fun hi => hi.elim ha hd

/-! ## Quiescence -/

/-- Settles O31: the decode operations wait in a quiescent state, and any other operation without bytes keeps the buffer. -/
theorem quiescenceEndsOnlyByAPush : Obligations.QuiescenceEndsOnlyByAPush := by
  refine ⟨fun s h => ?_, fun i s t h hbytes hrun => ?_⟩
  · obtain ⟨o, hw, hpass, hattempt⟩ := exec_of_quiescent h
    exact ⟨o, hw, hpass, hattempt, drainAttempt_of_wait [] hattempt hw⟩
  · rw [quiescent_congr (exec_keeps_cfg i hrun) ?_]
    · exact h
    obtain ⟨o, hw, hpass, hattempt⟩ := exec_of_quiescent h
    obtain hblock | ⟨p, hp⟩ := exec_next_block hrun
    · rw [hbytes, List.append_nil] at hblock
      exact congrArg Block.buf hblock
    · obtain (rfl | rfl | rfl) | hdrop := hp.moves
      · cases hpass.symm.trans hrun; rfl
      · cases hattempt.symm.trans hrun; rfl
      · cases (drainAttempt_of_wait [] hattempt hw).symm.trans hrun; rfl
      · have hbuf : t.buf = s.buf.drop p.drop := congrArg Block.buf hp.block
        rw [hbuf, hdrop, List.drop_zero]

/-! ## Single operations -/

/-- Settles O37: the short-payload case of the frame's arm writes the counter and the outcome alone. -/
theorem shortRcPayloadIsSkipped : Obligations.ShortRcPayloadIsSkipped := by
  intro addr payload s h
  obtain ⟨hlong, -⟩ | ⟨-, e⟩ := execRcChannelsPacked_cases addr payload s
  · omega
  · exact e

/-- Settles O48: a buffer at or past its capacity has no room. -/
theorem pushIntoAFullBufferIsRefused : Obligations.PushIntoAFullBufferIsRefused := by
  intro b s cap hcap hfull
  exact exec_push_of_full b fun hroom => Nat.not_lt.mpr hfull ((hasRoom_iff s).mp hroom cap hcap)

/-- A frame whose check holds is counted (`42_dispatch.md` R173). -/
theorem dispatchOutcome_isFrame {cfg : Config} {f : WireFrame} (h : f.crcOk cfg = true) :
    (dispatchOutcome cfg f).isFrame = true ∧ dispatchOutcome cfg f ≠ .crcError := by
  unfold dispatchOutcome
  rw [if_pos h]
  repeat' split
  all_goals exact ⟨rfl, nofun⟩

/-- The same pass made a second time leaves the registers as the first left them. -/
theorem Pass.apply_apply_registers (p : Pass) (s : State) :
    (p.apply (p.apply s)).ch = (p.apply s).ch ∧ (p.apply (p.apply s)).ls = (p.apply s).ls := by
  simp only [Pass.apply_ch, Pass.apply_ls]
  constructor <;> split <;> rfl

/-- A complete frame is at the front of its own bytes, whatever follows them. -/
theorem front_of_frame_bytes {cfg : Config} {bytes x : List Byte} {f : WireFrame} (h : front cfg (bytes ++ x) = .frame f)
    (hlen : bytes.length = f.size) (y : List Byte) : front cfg (bytes ++ y) = .frame f := by
  obtain ⟨hsize, h4, -, -⟩ := front_frame_size h
  rw [byteAt_append_left bytes x 1 (by omega)] at hsize
  have hshort : front cfg bytes ≠ .short := fun hf => by
    have := (front_short cfg bytes).mp hf
    omega
  have hincomplete : front cfg bytes ≠ .incomplete := fun hf => by
    obtain ⟨-, -, -, -, hmissing⟩ := (front_incomplete cfg bytes).mp hf
    omega
  rw [front_append cfg bytes y hshort hincomplete, ← front_append cfg bytes x hshort hincomplete, h]

/-- Settles O43: the two copies make the same pass, which counts a frame and drops one copy. -/
theorem aRepeatedFrameCountsTwice : Obligations.ARepeatedFrameCountsTwice := by
  intro s f bytes rest hcnt hbuf hf hlen hcrc
  obtain ⟨p, hp⟩ : ∃ p : Pass, p = ⟨f.size, dispatchOutcome s.cfg f, f.payload⟩ := ⟨_, rfl⟩
  have hdrop : p.drop = bytes.length := by rw [hp, hlen]
  obtain ⟨hframe, herr⟩ : p.outcome.isFrame = true ∧ p.outcome ≠ .crcError := by
    rw [hp]
    exact dispatchOutcome_isFrame hcrc
  have hpass {u : State} (hcfg : u.cfg = s.cfg) (hu : front s.cfg u.buf = .frame f) : exec .mstep u = .next (p.apply u) := by
    rw [exec_mstep_eq, hcfg, passOf, hu, hp]
    rfl
  have hfirst : (p.apply s).buf = bytes ++ rest := by
    rw [Pass.apply_buf, hbuf, List.append_assoc, hdrop, List.drop_left]
  have hsecond : (p.apply (p.apply s)).buf = rest := by
    rw [Pass.apply_buf, hfirst, hdrop, List.drop_left]
  obtain ⟨hch, hls⟩ := p.apply_apply_registers s
  refine ⟨p.apply s, p.apply (p.apply s), hpass rfl hf, hpass rfl ?_, hch, hls, ?_, ?_, ?_, hsecond⟩
  · rw [hfirst]
    rw [hbuf, List.append_assoc] at hf
    exact front_of_frame_bytes hf hlen rest
  · rw [Pass.apply_frameCount, if_pos hframe, hcnt, counterSucc_none]
  · rw [Pass.apply_frameCount, if_pos hframe, Pass.apply_frameCount, if_pos hframe, Pass.apply_cfg, hcnt, counterSucc_none,
      counterSucc_none]
  · rw [Pass.apply_errorCount, if_neg herr, Pass.apply_errorCount, if_neg herr]

end Sys2Proof.Machine

/-! # Proofs: reset, the step and the invariant

The constructed state has the invariant, each operation on the state keeps it, and so does every step. -/

namespace Sys2Proof.Machine

/-! ## Reset and the step -/

/-- A step with `rst` asserted resets the block on the queue that has moved on (`45_host_interface.md` R231). -/
theorem step_of_reset {s : State} {x : Transaction} {rest : List Transaction} (hp : s.pending = x :: rest)
    (hx : decodeTransaction x = .reset) : step s = .next (resetBlock (takeTransaction rest s)) := by
  simp only [step, hp, hx]

/-- Settles O1: the constructed block by its fields, and `rst` as a step to it. -/
theorem resetTakesTheConstructedState : Obligations.ResetTakesTheConstructedState := by
  intro cfg
  refine ⟨rfl, fun s cmd din rest hcfg hpending => ⟨_, step_of_reset hpending rfl, ?_, hcfg, rfl⟩⟩
  subst hcfg
  rfl

/-- Settles O2: the step's four cases. -/
theorem stepRunsTheDecodedTransaction : Obligations.StepRunsTheDecodedTransaction := by
  intro s
  refine ⟨fun hnone => ?_, fun x rest hpending => ⟨fun i hx => ?_, fun os hx => ?_, fun hx => ?_⟩⟩
  · simp only [step, hnone]
  · exact step_of_run hpending hx
  · exact step_of_resume hpending hx
  · exact step_of_reset hpending hx

/-! ## The ranges of the answers -/

/-- The raw values are in range (`45_host_interface.md` R237). -/
theorem inRange_channels (s : State) : (Answer.channels (s.ch.map BitVec.toNat)).inRange := by
  intro k
  have hk : (s.ch.map BitVec.toNat)[k] = s.ch[k].toNat := Vector.getElem_map ..
  rw [hk]
  exact channel_le s.ch[k]

/-- The normalized values are in range (R238). -/
theorem inRange_channelsNorm (s : State) : (Answer.channelsNorm (s.ch.map normOf)).inRange := by
  intro k
  have hk : (s.ch.map normOf)[k] = normOf s.ch[k] := Vector.getElem_map ..
  rw [hk]
  exact normOf_bounds s.ch[k]

/-- The microsecond values are in range (R239). -/
theorem inRange_channelsUs (s : State) : (Answer.channelsUs (s.ch.map (usOf s.cfg.usRound))).inRange := by
  intro k
  have hk : (s.ch.map (usOf s.cfg.usRound))[k] = usOf s.cfg.usRound s.ch[k] := Vector.getElem_map ..
  rw [hk]
  exact usOf_bounds s.cfg.usRound s.ch[k]

/-- The reported link statistics are in range (R240). -/
theorem inRange_linkStats (l : LinkStats) : (Answer.linkStats (LinkStatsReport.ofStats l)).inRange := by
  have hbyte (b : Byte) : b.toNat ≤ 255 := Nat.le_of_lt_succ b.isLt
  have hlo : -128 ≤ signed8 l.snr := signed8_eq_toInt l.snr ▸ BitVec.le_toInt l.snr
  have hhi : signed8 l.snr ≤ 127 := signed8_eq_toInt l.snr ▸ BitVec.toInt_le
  exact ⟨hbyte _, hbyte _, hbyte _, hlo, hhi, hbyte _, hbyte _, hbyte _⟩

/-! ## What keeps the invariant -/

/-- The construction has the invariant. -/
theorem inv_boot {cfg : Config} (h : cfg.wf = true) : (State.boot cfg).Inv where
  cfgWf := h
  bufWithinCap _ _ := Nat.zero_le _
  countersFit _ _ := ⟨Nat.zero_le _, Nat.zero_le _⟩
  outcomeOk := nofun
  drainsOk := nofun
  answerOk := nofun

namespace State.Inv

/-- The queue moves on. -/
theorem takeTransaction {s : State} {x : Transaction} {rest : List Transaction} (h : s.Inv) (hp : s.pending = x :: rest) :
    (takeTransaction rest s).Inv where
  cfgWf := h.cfgWf
  bufWithinCap := h.bufWithinCap
  countersFit := h.countersFit
  outcomeOk := h.outcomeOk
  drainsOk os hos := h.drainsOk os (hp ▸ List.mem_cons_of_mem x hos)
  answerOk := h.answerOk

/-- The block is reset. -/
theorem resetBlock {s : State} (h : s.Inv) : (resetBlock s).Inv where
  cfgWf := h.cfgWf
  bufWithinCap _ _ := Nat.zero_le _
  countersFit _ _ := ⟨Nat.zero_le _, Nat.zero_le _⟩
  outcomeOk := nofun
  drainsOk := h.drainsOk
  answerOk := nofun

/-- An answer in range is returned. -/
theorem answer {s : State} {a : Answer} (h : s.Inv) (ha : a.inRange) : ({ s with answer := some a } : State).Inv where
  cfgWf := h.cfgWf
  bufWithinCap := h.bufWithinCap
  countersFit := h.countersFit
  outcomeOk := h.outcomeOk
  drainsOk := h.drainsOk
  answerOk := by rintro _ ⟨⟩; exact ha

/-- Bytes that fit are appended. -/
theorem append {s : State} {bytes : List Byte} (h : s.Inv)
    (hroom : ∀ cap, s.cfg.bufCap = some cap → s.buf.length + bytes.length ≤ cap) :
    ({ s with buf := s.buf ++ bytes } : State).Inv where
  cfgWf := h.cfgWf
  bufWithinCap cap hcap := List.length_append ▸ hroom cap hcap
  countersFit := h.countersFit
  outcomeOk := h.outcomeOk
  drainsOk := h.drainsOk
  answerOk := h.answerOk

/-- A counter that may be incremented still fits. -/
theorem counter_fits {w n : Nat} {c : Prop} [Decidable c] (h : n ≤ 2 ^ w - 1) :
    (if c then counterSucc (some w) n else n) ≤ 2 ^ w - 1 := by
  split
  · exact counterSucc_fits w n h
  · exact h

/-- A pass or an attempt is made. -/
theorem apply {s : State} {p : Pass} (h : s.Inv) (hp : p.outcome.typeOk) : (p.apply s).Inv where
  cfgWf := h.cfgWf
  bufWithinCap cap hcap := by
    rw [Pass.apply_buf, List.length_drop]
    exact Nat.le_trans (Nat.sub_le _ _) (h.bufWithinCap cap hcap)
  countersFit w hw := by
    obtain ⟨hframe, herror⟩ := h.countersFit w hw
    rw [Pass.apply_frameCount, Pass.apply_errorCount, show s.cfg.cntW = some w from hw]
    exact ⟨counter_fits hframe, counter_fits herror⟩
  outcomeOk := by rintro _ ⟨⟩; exact hp
  drainsOk := h.drainsOk
  answerOk := h.answerOk

/-- The rest of a drain is put back. -/
theorem continueDrain {s : State} {os : List DecodeOutcome} (h : s.Inv)
    (hos : ∀ o ∈ os, o.isWait = false ∧ o.isDiscard = false) : (continueDrain os s).Inv where
  cfgWf := h.cfgWf
  bufWithinCap := h.bufWithinCap
  countersFit := h.countersFit
  outcomeOk := h.outcomeOk
  drainsOk os' hos' := by
    rw [continueDrain_pending, List.mem_append, List.mem_cons] at hos'
    obtain htaken | hnew | hdropped := hos'
    · exact h.drainsOk os' (List.mem_of_mem_take htaken)
    · cases hnew
      exact hos
    · exact h.drainsOk os' (List.mem_of_mem_drop hdropped)
  answerOk := h.answerOk

/-- An attempt of a drain is made. -/
theorem drainAttempt {s t : State} {os : List DecodeOutcome} (h : s.Inv)
    (hos : ∀ o ∈ os, o.isWait = false ∧ o.isDiscard = false) (hrun : drainAttempt os s = .next t) : t.Inv := by
  obtain ⟨p, hp, ⟨-, rfl⟩ | ⟨hw, rfl⟩⟩ := drainAttempt_apply hrun
  · exact (h.apply (attemptOf_typeOk hp)).answer hos
  · refine (h.apply (attemptOf_typeOk hp)).continueDrain fun o ho => ?_
    obtain ho | ho := List.mem_append.mp ho
    · exact hos o ho
    · rw [List.mem_singleton.mp ho]
      exact ⟨hw, attemptOf_isDiscard hp⟩

/-- A feed is made. -/
theorem feed {s t : State} {bytes : List Byte} (h : s.Inv) (hrun : exec (.feed bytes) s = .next t) : t.Inv := by
  rw [execFeed_next hrun]
  refine h.append fun cap hcap => ?_
  by_cases hne : bytes = []
  · rw [hne]
    exact h.bufWithinCap cap hcap
  · refine Nat.le_of_not_lt fun hfull => ?_
    cases (exec_feed_of_full bytes s hcap hne hfull).symm.trans hrun

end State.Inv

/-- What a transaction runs is encoded as a transaction: no frame's instruction, which is reached through a pass only (log 22). -/
theorem encode_of_run {x : Transaction} {i : Instr} (hx : decodeTransaction x = .run i) (cfg : Config) :
    ∃ y, encode cfg i = .transaction y := by
  cases x with
  | port rst cmd din =>
    cases rst with
    | true => cases hx
    | false =>
      cases hx
      unfold decodeCommand
      split <;> exact ⟨_, rfl⟩
  | query q => cases hx; cases q <;> exact ⟨_, rfl⟩
  | feed bytes => cases hx; exact ⟨_, rfl⟩
  | drain => cases hx; exact ⟨_, rfl⟩
  | drainOn outcomes => cases hx

/-- The transaction that resumes a drain is the rest of it. -/
theorem eq_drainOn_of_resume {x : Transaction} {os : List DecodeOutcome} (hx : decodeTransaction x = .resume os) :
    x = .drainOn os := by
  cases x with
  | drainOn outcomes => cases hx; rfl
  | port rst cmd din => cases rst <;> cases hx
  | query | feed | drain => cases hx

/-- Every operation a transaction runs keeps the invariant. -/
theorem inv_of_run {x : Transaction} {i : Instr} {s t : State} (hx : decodeTransaction x = .run i) (h : s.Inv)
    (hrun : exec i s = .next t) : t.Inv := by
  cases i with
  | rcChannelsPacked | linkStatistics | otherType =>
    obtain ⟨y, hy⟩ := encode_of_run hx s.cfg
    cases hy
  | idle => cases hrun; exact h
  | push b =>
    obtain ⟨hroom, rfl⟩ := execPush_next hrun
    exact h.append (bytes := [b]) ((hasRoom_iff s).mp hroom)
  | mstep =>
    obtain ⟨p, hp, rfl⟩ := syncPass_next hrun
    exact h.apply (passOf_typeOk hp)
  | attempt =>
    obtain ⟨p, hp, rfl⟩ := exec_attempt_next hrun
    exact h.apply (attemptOf_typeOk hp)
  | reservedCmd c => cases hrun
  | getChannels => cases hrun; exact h.answer (inRange_channels s)
  | getChannelsNorm => cases hrun; exact h.answer (inRange_channelsNorm s)
  | getChannelsUs => cases hrun; exact h.answer (inRange_channelsUs s)
  | getLinkStats => cases hrun; exact h.answer (inRange_linkStats s.ls)
  | getCounters => cases hrun; exact h.answer (errorRateOf_nonneg s.errorCount s.frameCount)
  | feed bytes => exact h.feed hrun
  | drain => exact h.drainAttempt (fun _ ho => (List.not_mem_nil ho).elim) hrun

/-! ## The statements -/

/-- Settles O8: construction leaves nothing that could break the invariant, and the default parameters are well formed. -/
theorem constructionMeetsTheInvariant : Obligations.ConstructionMeetsTheInvariant :=
  ⟨fun _ h => inv_boot h, inv_boot (by decide)⟩

/-- Settles O7: each case of a step keeps the invariant, on the queue that has moved on. -/
theorem everyStepKeepsTheInvariant : Obligations.EveryStepKeepsTheInvariant := by
  intro s t h hstep
  obtain ⟨-, rfl⟩ | ⟨x, rest, hpending, ⟨-, rfl⟩ | ⟨i, hx, hrun⟩ | ⟨os, hx, hrun⟩⟩ := step_next hstep
  · exact h
  · exact (h.takeTransaction hpending).resetBlock
  · exact inv_of_run hx (h.takeTransaction hpending) hrun
  · refine (h.takeTransaction hpending).drainAttempt (h.drainsOk os ?_) hrun
    rw [hpending, eq_drainOn_of_resume hx]
    exact List.mem_cons_self

end Sys2Proof.Machine

/-! # Proofs: the CRC

The register is linear in the byte list (`40_crc8.md`), each of its steps can be undone, so that a changed byte changes it, and one
inner iteration is a multiplication by `x` modulo the generator. -/

namespace Sys2Proof.Machine

/-! ## Linearity, residue, table -/

/-- The register over one more byte. -/
theorem crcRun_append_singleton (acc : Byte) (d : List Byte) (b : Byte) :
    crcRun acc (d ++ [b]) = crcShift8 (crcRun acc d ^^^ b) := by
  rw [crcRun_append]
  rfl

/-- The register over two lists of one length combined is that over each, combined. -/
theorem crcRun_zipWith_xor (x y : Byte) {a b : List Byte} (h : a.length = b.length) :
    crcRun (x ^^^ y) (List.zipWith (· ^^^ ·) a b) = crcRun x a ^^^ crcRun y b := by
  induction a generalizing x y b with
  | nil =>
    cases b with
    | nil => rfl
    | cons _ _ => cases h
  | cons u a ih =>
    cases b with
    | nil => cases h
    | cons v b =>
      have hswap : x ^^^ y ^^^ (u ^^^ v) = x ^^^ u ^^^ (y ^^^ v) := by ac_rfl
      rw [List.zipWith_cons_cons, crcRun, hswap, crcShift8_xor, ih _ _ (Nat.succ_injective h)]
      rfl

/-- Settles O14: linearity is that of the register, and the last byte enters the register before its iterations. -/
theorem crcIsLinearWithZeroResidue : Obligations.CrcIsLinearWithZeroResidue := by
  refine ⟨fun a b h => ?_, fun d => ?_, fun d b => ?_⟩
  · exact crcRun_zipWith_xor 0x00#8 0x00#8 h
  · rw [crc8, crcRun_append_singleton, crc8, BitVec.xor_self]
    rfl
  · rw [crc8, crcRun_append_singleton, crc8, crcRun, crc8, BitVec.zero_xor]
    rfl

/-! ## A changed byte is detected -/

/-- A shifted byte holds each bit one place up. -/
theorem getLsbD_shiftLeft_succ (a : Byte) {i : Nat} (hi : i < 7) : (a <<< 1).getLsbD (i + 1) = a.getLsbD i := by
  rw [BitVec.getLsbD_shiftLeft, Nat.add_sub_cancel, decide_eq_true (Nat.succ_lt_succ hi),
    decide_eq_false (Nat.not_lt.mpr (Nat.le_add_left 1 i))]
  rfl

/-- No register but 0 is shifted to 0. -/
theorem eq_zero_of_crcShift {a : Byte} (h : crcShift a = 0#8) : a = 0#8 := by
  unfold crcShift at h
  split at h
  · have hbit := congrArg (BitVec.getLsbD · 0) h
    simp [crcPoly] at hbit
  · apply BitVec.eq_of_getLsbD_eq
    intro i hi
    by_cases h7 : i = 7
    · rw [h7]
      exact Bool.eq_false_iff.mpr ‹¬a.getLsbD 7 = true›
    · rw [← getLsbD_shiftLeft_succ a (by omega), h, BitVec.getLsbD_zero, BitVec.getLsbD_zero]

/-- Eight iterations can be undone. -/
theorem crcShift8_injective : Function.Injective crcShift8 := by
  intro a b h
  have hzero : crcShift8 (a ^^^ b) = 0#8 := by rw [crcShift8_xor, h, BitVec.xor_self]
  refine BitVec.xor_eq_zero_iff.mp ?_
  exact eq_zero_of_crcShift <| eq_zero_of_crcShift <| eq_zero_of_crcShift <| eq_zero_of_crcShift <|
    eq_zero_of_crcShift <| eq_zero_of_crcShift <| eq_zero_of_crcShift <| eq_zero_of_crcShift hzero

/-- The register after a list tells the register before it. -/
theorem crcRun_left_injective (l : List Byte) : Function.Injective (crcRun · l) := by
  induction l with
  | nil => exact fun _ _ h => h
  | cons b l ih => exact fun _ _ h => (BitVec.xor_left_inj b).mp (crcShift8_injective (ih h))

/-- Two lists that differ in one byte leave different registers. -/
theorem eq_getElem_of_crcRun_set {acc x : Byte} {l : List Byte} {i : Nat} (hi : i < l.length)
    (h : crcRun acc (l.set i x) = crcRun acc l) : x = l[i] := by
  induction l generalizing acc i with
  | nil => cases hi
  | cons b l ih =>
    cases i with
    | zero => exact (BitVec.xor_right_inj acc).mp (crcShift8_injective (crcRun_left_injective l h))
    | succ i => exact ih (Nat.lt_of_succ_lt_succ hi) h

/-- The candidate's check holds where the register over its covered bytes and its CRC byte is 0 (`40_crc8.md`, the residue). -/
theorem candidate_crcOk_iff_residue (cfg : Config) {buf : List Byte} (hmin : 2 ≤ (byteAt buf 1).toNat)
    (hfull : (byteAt buf 1).toNat + 2 ≤ buf.length) :
    (candidate buf).crcOk cfg = true ↔ crcRun cfg.crcInit (sub buf 2 (byteAt buf 1).toNat) = 0#8 := by
  obtain ⟨n, hn⟩ : ∃ n, (byteAt buf 1).toNat = n + 2 := ⟨_, (Nat.sub_add_cancel hmin).symm⟩
  have hbyte (i : Nat) (hi : i < buf.length) : byteAt buf i = buf[i] := by simp [byteAt, hi]
  have hbytes : sub buf 2 (n + 2) = (byteAt buf 2 :: (buf.drop 3).take n) ++ [byteAt buf (n + 3)] := by
    rw [hbyte 2 (by omega), hbyte (n + 3) (by omega), sub, List.drop_eq_getElem_cons (by omega), List.take_succ_cons,
      List.take_succ_eq_append_getElem (by rw [List.length_drop]; omega)]
    simp [Nat.add_comm]
  have hzero (x : Byte) : crcShift8 x = 0#8 ↔ x = 0#8 :=
    ⟨fun h => crcShift8_injective h, fun h => by rw [h]; rfl⟩
  rw [candidate_crcOk, hn, hbytes, crcRun_append_singleton, hzero, BitVec.xor_eq_zero_iff]
  rfl

/-! ### The flipped buffer -/

/-- A flip changes no other byte. -/
theorem byteAt_flipBit_of_ne (buf : List Byte) {i j : Nat} (k : Nat) (h : j ≠ i) : byteAt (flipBit buf j k) i = byteAt buf i := by
  simp [flipBit, byteAt, List.getElem?_set_ne h]

theorem length_flipBit (buf : List Byte) (j k : Nat) : (flipBit buf j k).length = buf.length := List.length_set

/-- A flip in the front frame's type, payload or CRC leaves a candidate frame of the same size, whose check fails where the
frame's passed. -/
theorem front_flipBit {cfg : Config} {buf : List Byte} {f : WireFrame} {j k : Nat} (hf : front cfg buf = .frame f)
    (hcrc : f.crcOk cfg = true) (hj : 2 ≤ j) (hsize : j < f.size) (hk : k < 8) :
    ∃ g, front cfg (flipBit buf j k) = .frame g ∧ g.size = f.size ∧ g.crcOk cfg = false := by
  obtain ⟨h4, haddr, hmin, hmax, hfull, rfl⟩ := (front_frame cfg buf f).mp hf
  change j < (byteAt buf 1).toNat + 2 at hsize
  have hheader : byteAt (flipBit buf j k) 1 = byteAt buf 1 := byteAt_flipBit_of_ne buf k (by omega)
  have haddr' : byteAt (flipBit buf j k) 0 ∈ cfg.addrWhitelist := by
    rw [byteAt_flipBit_of_ne buf k (by omega)]
    exact haddr
  have hcovered : sub (flipBit buf j k) 2 (byteAt buf 1).toNat =
      (sub buf 2 (byteAt buf 1).toNat).set (j - 2) (byteAt buf j ^^^ (1#8 <<< k)) := by
    rw [sub, flipBit, List.drop_set, if_neg (by omega), List.take_set, sub]
  refine ⟨candidate (flipBit buf j k), ?_, ?_, Bool.eq_false_iff.mpr fun hok => ?_⟩
  · rw [← hheader] at hmin hmax hfull
    rw [← length_flipBit buf j k] at h4 hfull
    exact front_eq_candidate h4 haddr' hmin hmax hfull
  · rw [WireFrame.size, candidate, hheader]
    rfl
  · rw [candidate_crcOk_iff_residue cfg (by rw [hheader]; exact hmin) (by rw [hheader, length_flipBit]; exact hfull), hheader,
      hcovered, ← (candidate_crcOk_iff_residue cfg hmin hfull).mp hcrc] at hok
    have hin : j - 2 < (sub buf 2 (byteAt buf 1).toNat).length := by
      rw [length_sub _ _ _ (by omega)]
      omega
    have hflip : byteAt buf j ^^^ (1#8 <<< k) = byteAt buf j := by
      rw [eq_getElem_of_crcRun_set hin hok]
      simp [sub, byteAt, show 2 + (j - 2) = j by omega, show j < buf.length by omega]
    have hzero : 1#8 <<< k = 0#8 := (BitVec.xor_right_inj (byteAt buf j)).mp (hflip.trans BitVec.xor_zero.symm)
    have hbit := congrArg (BitVec.getLsbD · k) hzero
    simp [hk] at hbit

/-- Settles O15: the pass extracts the flipped frame, whose check fails. -/
theorem singleBitFlipIsACrcError : Obligations.SingleBitFlipIsACrcError := by
  intro s f j k hf hcrc hj hsize hk
  obtain ⟨g, hg, hsame, hbad⟩ := front_flipBit hf hcrc hj hsize hk
  have hrest : (flipBit s.buf j k).drop f.size = s.buf.drop f.size := List.drop_set_of_lt hsize
  rw [exec_mstep_of_not_crcOk (s := { s with buf := flipBit s.buf j k }) hg hbad, hsame, ← hrest]
  rfl

/-! ## The register as a remainder -/

open Polynomial

/-- The generator of `40_crc8.md`, `x^8 + x^7 + x^6 + x^4 + x^2 + 1` over the two-element field. -/
noncomputable def crcGenerator : (ZMod 2)[X] := X ^ 8 + X ^ 7 + X ^ 6 + X ^ 4 + X ^ 2 + 1

/-- A byte as a polynomial, bit `i` at `x^i` (`40_crc8.md`, the polynomial reading). -/
noncomputable def bytePoly (b : Byte) : (ZMod 2)[X] := ∑ i ∈ Finset.range 8, if b.getLsbD i then X ^ i else 0

/-- A byte list as a polynomial after the polynomial `acc`, first byte first. -/
noncomputable def listPoly (acc : (ZMod 2)[X]) (data : List Byte) : (ZMod 2)[X] :=
  data.foldl (fun p b => p * X ^ 8 + bytePoly b) acc

theorem crcGenerator_monic : crcGenerator.Monic := by
  unfold crcGenerator
  monicity!

theorem crcGenerator_degree : crcGenerator.degree = 8 := by
  unfold crcGenerator
  compute_degree!

theorem bytePoly_degree_lt (b : Byte) : (bytePoly b).degree < crcGenerator.degree := by
  rw [crcGenerator_degree]
  refine mem_degreeLT.mp (Submodule.sum_mem _ fun i hi => ?_)
  split
  · exact mem_degreeLT.mpr ((degree_X_pow_le i).trans_lt (by exact_mod_cast Finset.mem_range.mp hi))
  · exact Submodule.zero_mem _

/-- Exclusive or is the sum of the polynomials. -/
theorem bytePoly_xor (a b : Byte) : bytePoly (a ^^^ b) = bytePoly a + bytePoly b := by
  simp only [bytePoly, ← Finset.sum_add_distrib, BitVec.getLsbD_xor]
  refine Finset.sum_congr rfl fun i _ => ?_
  cases a.getLsbD i <;> cases b.getLsbD i <;> simp [CharTwo.add_self_eq_zero]

/-- A shift is a multiplication by `x` without the term that leaves the byte. -/
theorem bytePoly_shiftLeft (a : Byte) :
    bytePoly (a <<< 1) + (if a.getLsbD 7 then X ^ 8 else 0) = bytePoly a * X := by
  have hterm (i : Nat) (hi : i ∈ Finset.range 7) : (if (a <<< 1).getLsbD (i + 1) then (X : (ZMod 2)[X]) ^ (i + 1) else 0) =
      (if a.getLsbD i then X ^ i else 0) * X := by
    rw [getLsbD_shiftLeft_succ a (Finset.mem_range.mp hi), ite_mul, zero_mul, pow_succ]
  have hlow : (a <<< 1).getLsbD 0 = false := by simp
  rw [bytePoly, Finset.sum_range_succ', Finset.sum_congr rfl hterm, ← Finset.sum_mul, hlow, bytePoly,
    Finset.sum_range_succ _ 7, add_mul, ite_mul, zero_mul, ← pow_succ]
  simp

/-- The bits of the generator below `x^8` (R121). -/
theorem bytePoly_crcPoly : bytePoly crcPoly + X ^ 8 = crcGenerator := by
  have hbits : bytePoly crcPoly = 1 + X ^ 2 + X ^ 4 + X ^ 6 + X ^ 7 := by
    simp [bytePoly, crcPoly, Finset.sum_range_succ]
  rw [hbits, crcGenerator]
  ring

/-- One inner iteration is a multiplication by `x` modulo the generator (R121). -/
theorem mk_bytePoly_crcShift (a : Byte) : AdjoinRoot.mk crcGenerator (bytePoly (crcShift a)) =
    AdjoinRoot.mk crcGenerator (bytePoly a) * AdjoinRoot.mk crcGenerator X := by
  have hshift := bytePoly_shiftLeft a
  rw [← map_mul, ← hshift, crcShift]
  split
  · have hgen : bytePoly crcPoly = crcGenerator + X ^ 8 := by
      rw [← bytePoly_crcPoly, add_assoc, CharTwo.add_self_eq_zero, add_zero]
    rw [bytePoly_xor, hgen, map_add, map_add, AdjoinRoot.mk_self, zero_add, map_add]
  · rw [add_zero]

/-- Eight iterations are a multiplication by `x^8` modulo the generator. -/
theorem mk_bytePoly_crcShift8 (a : Byte) : AdjoinRoot.mk crcGenerator (bytePoly (crcShift8 a)) =
    AdjoinRoot.mk crcGenerator (bytePoly a) * AdjoinRoot.mk crcGenerator X ^ 8 := by
  simp only [crcShift8, mk_bytePoly_crcShift]
  ring

/-- The register over a list, modulo the generator: what it held, as a polynomial times `x^8`, with the list behind. -/
theorem mk_bytePoly_crcRun (data : List Byte) {acc : Byte} {p : (ZMod 2)[X]}
    (h : AdjoinRoot.mk crcGenerator (bytePoly acc) = AdjoinRoot.mk crcGenerator (p * X ^ 8)) :
    AdjoinRoot.mk crcGenerator (bytePoly (crcRun acc data)) = AdjoinRoot.mk crcGenerator (listPoly p data * X ^ 8) := by
  induction data generalizing acc p with
  | nil => exact h
  | cons b data ih =>
    refine ih (p := p * X ^ 8 + bytePoly b) ?_
    rw [mk_bytePoly_crcShift8, bytePoly_xor, map_add, h, ← map_add, ← map_pow, ← map_mul]

/-- Settles O13: the CRC and the list's polynomial times `x^8` are congruent, and the CRC is of smaller degree. -/
theorem crcIsTheRemainderByTheGenerator : Obligations.CrcIsTheRemainderByTheGenerator := by
  intro data
  have hzero : bytePoly 0x00#8 = 0 := by simp [bytePoly]
  have hcongr : AdjoinRoot.mk crcGenerator (listPoly 0 data * X ^ 8) =
      AdjoinRoot.mk crcGenerator (bytePoly (crc8 0x00#8 data)) :=
    (mk_bytePoly_crcRun data (by rw [hzero, zero_mul])).symm
  change (listPoly 0 data * X ^ 8) %ₘ crcGenerator = bytePoly (crc8 0x00#8 data)
  rw [modByMonic_eq_of_dvd_sub crcGenerator_monic (AdjoinRoot.mk_eq_mk.mp hcongr)]
  exact (modByMonic_eq_self_iff crcGenerator_monic).mpr (bytePoly_degree_lt _)

end Sys2Proof.Machine

/-! # Proofs: packing

Both integers of `43_rc_channels.md` are numbers written in digits of a fixed width. Cutting a number into digits and reading digits
as a number are inverse, whatever the width, so packing and unpacking are; and a bit of a channel is a bit of a payload byte. -/

namespace Sys2Proof.Machine

/-! ## Digits of a fixed width -/

/-- The number with the given digits of `w` bits, least significant first. -/
def digitsNat {w : Nat} (l : List (BitVec w)) : Nat := Nat.ofDigits (2 ^ w) (l.map BitVec.toNat)

theorem digitsNat_cons {w : Nat} (d : BitVec w) (l : List (BitVec w)) : digitsNat (d :: l) = d.toNat + 2 ^ w * digitsNat l :=
  Nat.ofDigits_cons ..

/-- The little-endian integer is the number with the bytes as digits (`20_memory.md` R52). -/
theorem leNat_eq_digitsNat (l : List Byte) : leNat l = digitsNat l := by
  induction l with
  | nil => rfl
  | cons b l ih => rw [leNat, digitsNat_cons, ih]

/-- The integer of the channels is the number with the channels as digits (`43_rc_channels.md` R196). -/
theorem channelsNat_eq_digitsNat (l : List Channel) : channelsNat l = digitsNat l := by
  induction l with
  | nil => rfl
  | cons c l ih => rw [channelsNat, digitsNat_cons, ih]

/-- A number of `n` digits is below the base to the power `n`. -/
theorem digitsNat_lt {w : Nat} (l : List (BitVec w)) : digitsNat l < 2 ^ (w * l.length) := by
  induction l with
  | nil => exact Nat.one_pos
  | cons d l ih =>
    have hd := d.isLt
    rw [digitsNat_cons, List.length_cons, Nat.mul_succ, Nat.add_comm (w * _), Nat.pow_add]
    calc d.toNat + 2 ^ w * digitsNat l < 2 ^ w + 2 ^ w * digitsNat l := by omega
      _ = 2 ^ w * (digitsNat l + 1) := by ring
      _ ≤ 2 ^ w * 2 ^ (w * l.length) := Nat.mul_le_mul_left _ ih

/-- Digit `i` of a number is read off at bit `w * i`. -/
theorem ofNat_digitsNat_shiftRight {w : Nat} (l : List (BitVec w)) (i : Nat) (hi : i < l.length) :
    BitVec.ofNat w (digitsNat l >>> (w * i)) = l[i] := by
  induction l generalizing i with
  | nil => cases hi
  | cons d l ih =>
    rw [digitsNat_cons]
    cases i with
    | zero =>
      apply BitVec.eq_of_toNat_eq
      simp
    | succ i =>
      have hdrop : (d.toNat + 2 ^ w * digitsNat l) >>> w = digitsNat l := by
        rw [Nat.shiftRight_eq_div_pow, Nat.add_mul_div_left _ _ (Nat.two_pow_pos w), Nat.div_eq_of_lt d.isLt, Nat.zero_add]
      rw [Nat.mul_succ, Nat.add_comm (w * i), Nat.shiftRight_add, hdrop]
      exact ih i (Nat.lt_of_succ_lt_succ hi)

/-- The first `n` digits of `w` bits of a number. -/
def digitsOf (w n N : Nat) : List (BitVec w) := (List.range n).map fun i => BitVec.ofNat w (N >>> (w * i))

/-- The first `n` digits of a number give it back modulo the base to the power `n`. -/
theorem digitsNat_digitsOf (w n N : Nat) : digitsNat (digitsOf w n N) = N % 2 ^ (w * n) := by
  induction n generalizing N with
  | zero => exact (Nat.mod_one N).symm
  | succ n ih =>
    have hcons : digitsOf w (n + 1) N = BitVec.ofNat w N :: digitsOf w n (N >>> w) := by
      simp only [digitsOf, List.range_succ_eq_map, List.map_cons, List.map_map]
      simp [Function.comp_def, Nat.mul_succ, Nat.add_comm, Nat.shiftRight_add]
    rw [hcons, digitsNat_cons, ih, BitVec.toNat_ofNat, Nat.shiftRight_eq_div_pow, Nat.mul_succ, Nat.add_comm (w * n), Nat.pow_add,
      Nat.mod_mul]

/-! ## The round trip -/

/-- The packed bytes are the digits of the channels' integer (R196). -/
theorem pack_eq_digitsOf (c : ChannelSet) : pack c = digitsOf 8 22 (digitsNat c.toList) := by
  rw [pack, channelsNat_eq_digitsNat]
  rfl

/-- The unpacked channels are the digits of the payload's integer (R192). -/
theorem toList_unpack (p : List Byte) : (unpack p).toList = digitsOf 11 16 (digitsNat (p.take 22)) := by
  rw [← leNat_eq_digitsNat]
  apply List.ext_getElem
  · simp [digitsOf]
  · intro k h₁ h₂
    simp [unpack, digitsOf, rcPayloadMin]

theorem length_pack (c : ChannelSet) : (pack c).length = 22 := by simp [pack, rcPayloadMin]

/-- Settles O39: 16 channels and 22 bytes are 176 bits both, and neither cutting nor reading loses a bit. -/
theorem packAndUnpackAreInverse : Obligations.PackAndUnpackAreInverse := by
  refine ⟨fun c => ⟨length_pack c, Vector.toList_inj.mp ?_⟩, fun p hp => ?_⟩
  · have hN : digitsNat c.toList < 2 ^ 176 := by simpa using digitsNat_lt c.toList
    rw [toList_unpack, List.take_of_length_le (length_pack c).le, pack_eq_digitsOf, digitsNat_digitsOf, Nat.mod_eq_of_lt hN]
    apply List.ext_getElem
    · simp [digitsOf]
    · intro k h₁ h₂
      rw [← ofNat_digitsNat_shiftRight _ k h₂]
      simp [digitsOf]
  · have hN : digitsNat p < 2 ^ 176 := by simpa [hp] using digitsNat_lt p
    rw [pack_eq_digitsOf, toList_unpack, List.take_of_length_le hp.le, digitsNat_digitsOf, Nat.mod_eq_of_lt hN]
    apply List.ext_getElem
    · simp [digitsOf, hp]
    · intro i h₁ h₂
      rw [← ofNat_digitsNat_shiftRight _ i h₂]
      simp [digitsOf]

/-! ## The byte-level form -/

/-- A bit of the little-endian integer is a bit of a byte (R192). -/
theorem testBit_leNat (l : List Byte) (i : Nat) : (leNat l).testBit i = (byteAt l (i / 8)).getLsbD (i % 8) := by
  induction l generalizing i with
  | nil => simp [leNat]
  | cons b l ih =>
    have hb : b.toNat < 2 ^ 8 := b.isLt
    rw [leNat, Nat.add_comm, Nat.testBit_two_pow_mul_add _ hb]
    split
    · rw [Nat.div_eq_of_lt ‹_›, Nat.mod_eq_of_lt ‹_›, byteAt_cons_zero, BitVec.getLsbD]
    · obtain ⟨j, rfl⟩ : ∃ j, i = j + 8 := ⟨i - 8, by omega⟩
      rw [Nat.add_sub_cancel, ih, Nat.add_div_right _ (by decide), Nat.add_mod_right, byteAt_cons_succ]

/-- A bit of a channel is a bit of a payload byte. -/
theorem getLsbD_unpack (p : List Byte) (k : Fin 16) (j : Nat) (hj : j < 11) :
    (unpack p)[k].getLsbD j = (byteAt p ((11 * k + j) / 8)).getLsbD ((11 * k + j) % 8) := by
  have hk := k.isLt
  have hbyte : byteAt (p.take 22) ((11 * k + j) / 8) = byteAt p ((11 * k + j) / 8) := byteAt_take p 22 _ (by omega)
  have hchannel : (unpack p)[k] = BitVec.ofNat 11 (leNat (p.take 22) >>> (11 * k.val)) := by simp [unpack, rcPayloadMin]
  rw [hchannel, BitVec.getLsbD_ofNat, decide_eq_true hj, Bool.true_and, Nat.testBit_shiftRight, testBit_leNat, hbyte]

/-- A bit of three bytes side by side. -/
theorem testBit_threeBytes (a b c : Byte) (m : Nat) (hm : m < 24) :
    (a.toNat ||| b.toNat <<< 8 ||| c.toNat <<< 16).testBit m =
      if m < 8 then a.getLsbD m else if m < 16 then b.getLsbD (m - 8) else c.getLsbD (m - 16) := by
  have hhigh (d : Byte) (i : Nat) (hi : 8 ≤ i) : d.toNat.testBit i = false := BitVec.getLsbD_of_ge d i hi
  rw [Nat.testBit_or, Nat.testBit_or, Nat.testBit_shiftLeft, Nat.testBit_shiftLeft]
  by_cases h8 : m < 8
  · rw [if_pos h8, decide_eq_false (show ¬m ≥ 8 by omega), decide_eq_false (show ¬m ≥ 16 by omega)]
    simp [BitVec.getLsbD]
  · rw [if_neg h8, hhigh a m (by omega), decide_eq_true (show m ≥ 8 by omega)]
    by_cases h16 : m < 16
    · rw [if_pos h16, decide_eq_false (show ¬m ≥ 16 by omega)]
      simp [BitVec.getLsbD]
    · rw [if_neg h16, hhigh b (m - 8) (by omega), decide_eq_true (show m ≥ 16 by omega)]
      simp [BitVec.getLsbD]

/-- The byte-level form is three bytes side by side, the third where the shift reaches it (R193). -/
theorem unpackByteLevel_eq (p : List Byte) (k : Nat) : unpackByteLevel p k =
    BitVec.ofNat 11 (((byteAt p (11 * k / 8)).toNat ||| (byteAt p (11 * k / 8 + 1)).toNat <<< 8 |||
      (if 6 ≤ 11 * k % 8 then byteAt p (11 * k / 8 + 2) else 0#8).toNat <<< 16) >>> (11 * k % 8)) := by
  simp only [unpackByteLevel, apply_ite BitVec.toNat, BitVec.toNat_ofNat, Nat.zero_mod]

/-- The byte-level form agrees with the 176-bit integer (R193). -/
theorem unpack_eq_unpackByteLevel (p : List Byte) (k : Fin 16) : (unpack p)[k] = unpackByteLevel p k := by
  apply BitVec.eq_of_getLsbD_eq
  intro j hj
  rw [getLsbD_unpack p k j hj, unpackByteLevel_eq, BitVec.getLsbD_ofNat, decide_eq_true hj, Bool.true_and,
    Nat.testBit_shiftRight, testBit_threeBytes _ _ _ _ (by omega)]
  have hk := Nat.div_add_mod (11 * k) 8
  have hs := Nat.mod_lt (11 * k) (show 0 < 8 by decide)
  generalize 11 * k.val / 8 = b at hk ⊢
  generalize 11 * k.val % 8 = s at hk hs ⊢
  rw [← hk]
  by_cases h8 : s + j < 8
  · rw [if_pos h8, show (8 * b + s + j) / 8 = b by omega, show (8 * b + s + j) % 8 = s + j by omega]
  · by_cases h16 : s + j < 16
    · rw [if_neg h8, if_pos h16, show (8 * b + s + j) / 8 = b + 1 by omega, show (8 * b + s + j) % 8 = s + j - 8 by omega]
    · rw [if_neg h8, if_neg h16, if_pos (show 6 ≤ s by omega), show (8 * b + s + j) / 8 = b + 2 by omega,
        show (8 * b + s + j) % 8 = s + j - 16 by omega]

/-- The value of the byte-level form, each byte moved to its place. -/
theorem toNat_unpackByteLevel (p : List Byte) (k : Nat) : (unpackByteLevel p k).toNat =
    ((byteAt p (11 * k / 8)).toNat >>> (11 * k % 8) ||| (byteAt p (11 * k / 8 + 1)).toNat <<< (8 - 11 * k % 8) |||
      (if 6 ≤ 11 * k % 8 then byteAt p (11 * k / 8 + 2) else 0#8).toNat <<< (16 - 11 * k % 8)) &&& 0x7FF := by
  have hs : 11 * k % 8 < 8 := Nat.mod_lt _ (by decide)
  rw [unpackByteLevel_eq, BitVec.toNat_ofNat, Nat.shiftRight_or_distrib, Nat.shiftRight_or_distrib,
    ← Nat.shiftLeft_sub _ (by omega), ← Nat.shiftLeft_sub _ (by omega)]
  exact (Nat.and_two_pow_sub_one_eq_mod _ 11).symm

/-- Settles O38: bit by bit, a channel's bits lie in the two or three bytes named; the table's rows are those expressions. -/
theorem byteLevelUnpackingAgrees : Obligations.ByteLevelUnpackingAgrees := by
  intro p _
  have hrow (k : Fin 16) : (unpack p)[k].toNat = _ :=
    (congrArg BitVec.toNat (unpack_eq_unpackByteLevel p k)).trans (toNat_unpackByteLevel p k)
  refine ⟨unpack_eq_unpackByteLevel p, (hrow 0).trans ?_, (hrow 2).trans ?_, (hrow 7).trans ?_, (hrow 13).trans ?_,
    (hrow 15).trans ?_⟩ <;> simp

end Sys2Proof.Machine

/-! # Proofs: the floating-point views

A significand is the nearest integer to the scaled magnitude, ties to even. Every finite binary64 number is an integer multiple of
the same unit or lies below the least significand with its leading bit set, so no other finite number is nearer
(`92_eei_decisions.md` D17). -/

namespace Sys2Proof.Machine

/-! ## Rounding a quotient -/

/-- The rounded quotient: the quotient below a half, the next integer above it, and the even one of the two at a half. -/
theorem roundHalfEven_cases (n d : Nat) :
    (roundHalfEven n d = n / d ∧ 2 * (n % d) < d) ∨ (roundHalfEven n d = n / d + 1 ∧ d < 2 * (n % d)) ∨
      (2 * (n % d) = d ∧ roundHalfEven n d % 2 = 0 ∧ (roundHalfEven n d = n / d ∨ roundHalfEven n d = n / d + 1)) := by
  unfold roundHalfEven
  split
  · exact .inl ⟨rfl, ‹_›⟩
  · split
    · exact .inr (.inl ⟨rfl, ‹_›⟩)
    · split
      · exact .inr (.inr ⟨by omega, ‹_›, .inl rfl⟩)
      · exact .inr (.inr ⟨by omega, by omega, .inr rfl⟩)

/-- How far a multiple of the denominator lies from the numerator. -/
theorem sub_mul_cases (n d k : Nat) :
    (k = n / d ∧ (n : Int) - k * d = (n % d : Nat)) ∨ (k = n / d + 1 ∧ (n : Int) - k * d = (n % d : Nat) - d) ∨
      (k < n / d ∧ d + (n % d : Nat) ≤ (n : Int) - k * d) ∨ (n / d + 1 < k ∧ (n : Int) - k * d ≤ (n % d : Nat) - 2 * d) := by
  have hn : (n : Int) = (n / d : Nat) * d + (n % d : Nat) := by exact_mod_cast (Nat.div_add_mod' n d).symm
  rw [hn]
  generalize n / d = q
  generalize n % d = r
  obtain hlt | rfl | hgt := lt_trichotomy k q
  · obtain ⟨a, rfl⟩ := Nat.exists_eq_add_of_lt hlt
    refine .inr (.inr (.inl ⟨hlt, ?_⟩))
    push_cast
    nlinarith [Int.mul_nonneg (Int.natCast_nonneg a) (Int.natCast_nonneg d)]
  · exact .inl ⟨rfl, by ring⟩
  · obtain ⟨a, rfl⟩ := Nat.exists_eq_add_of_lt hgt
    cases a with
    | zero => exact .inr (.inl ⟨rfl, by push_cast; ring⟩)
    | succ a =>
      refine .inr (.inr (.inr ⟨by omega, ?_⟩))
      push_cast
      nlinarith [Int.mul_nonneg (Int.natCast_nonneg a) (Int.natCast_nonneg d)]

/-- The rounded quotient is nearest, ties to even. -/
theorem roundHalfEven_nearest (n d k : Nat) (hd : 0 < d) :
    |(n : Int) - roundHalfEven n d * d| ≤ |(n : Int) - k * d| ∧
    (|(n : Int) - roundHalfEven n d * d| = |(n : Int) - k * d| → k ≠ roundHalfEven n d → roundHalfEven n d % 2 = 0) := by
  have hr := Nat.mod_lt n hd
  have hround := roundHalfEven_cases n d
  have hself := sub_mul_cases n d (roundHalfEven n d)
  have hother := sub_mul_cases n d k
  generalize roundHalfEven n d = r at hround hself ⊢
  generalize (n : Int) - r * d = x at hself ⊢
  generalize (n : Int) - k * d = y at hother ⊢
  rw [abs_eq_max_neg, abs_eq_max_neg]
  omega

/-- `r` is a nearest natural number to `x`, and the even one where two are. -/
def NearestEven (x : Rat) (r : Nat) : Prop := ∀ t : Nat, |x - r| ≤ |x - t| ∧ (|x - r| = |x - t| → t ≠ r → r % 2 = 0)

/-- The rounded quotient, as a statement on the rational. -/
theorem nearestEven_roundHalfEven (n : Nat) {d : Nat} (hd : 0 < d) : NearestEven (n / d) (roundHalfEven n d) := by
  intro t
  obtain ⟨hle, htie⟩ := roundHalfEven_nearest n d t hd
  have hd' : (0 : Rat) < d := by exact_mod_cast hd
  have hscale (k : Nat) : |(n / d : Rat) - k| = (|(n : Int) - k * d| : Int) / (d : Rat) := by
    push_cast
    rw [← abs_of_pos hd', ← abs_div, abs_of_pos hd', sub_div, mul_div_assoc, div_self hd'.ne', mul_one]
  rw [hscale, hscale]
  refine ⟨by gcongr, fun h hne => htie ?_ hne⟩
  exact_mod_cast (div_left_inj' hd'.ne').mp h

namespace NearestEven

variable {x : Rat} {r : Nat}

/-- A natural number at or below `x` is at or below its rounding. -/
theorem le_of_le (h : NearestEven x r) {t : Nat} (ht : (t : Rat) ≤ x) : t ≤ r := by
  by_contra hlt
  have hlt : (r : Rat) < t := by exact_mod_cast Nat.lt_of_not_le hlt
  obtain ⟨hnear, -⟩ := h t
  rw [abs_of_nonneg (by linarith), abs_of_nonneg (by linarith)] at hnear
  linarith

/-- A natural number at or above `x` is at or above its rounding. -/
theorem ge_of_ge (h : NearestEven x r) {t : Nat} (ht : x ≤ t) : r ≤ t := by
  by_contra hlt
  have hlt : (t : Rat) < r := by exact_mod_cast Nat.lt_of_not_le hlt
  obtain ⟨hnear, -⟩ := h t
  rw [abs_of_nonpos (by linarith), abs_of_nonpos (by linarith)] at hnear
  linarith

/-- Less than a half above `t`, `x` is rounded to at most `t`. -/
theorem le_of_add_half_lt (h : NearestEven x r) {t : Nat} (ht : x + 1 / 2 < t + 1) : r ≤ t := by
  obtain hle | hlt := le_or_gt x t
  · exact h.ge_of_ge hle
  · by_contra hgt
    have hgt : (t + 1 : Rat) ≤ r := by exact_mod_cast Nat.lt_of_not_le hgt
    obtain ⟨hnear, -⟩ := h t
    rw [abs_of_nonpos (by linarith), abs_of_nonneg (by linarith)] at hnear
    linarith

/-- At a half above an odd number, or more, `x` is rounded to more than that number. -/
theorem lt_of_add_half_le (h : NearestEven x r) {t : Nat} (hodd : t % 2 = 1) (ht : (t : Rat) + 1 / 2 ≤ x) : t < r := by
  by_contra hle
  obtain rfl : r = t := le_antisymm (Nat.le_of_not_lt hle) (h.le_of_le (by linarith))
  obtain ⟨hmin, htie⟩ := h (r + 1)
  have hr : |x - r| = x - r := abs_of_nonneg (by linarith)
  push_cast at hmin htie
  obtain hx | hx := le_or_gt (r + 1 : Rat) x
  · rw [hr, abs_of_nonneg (by linarith)] at hmin
    linarith
  · rw [hr, abs_of_neg (by linarith)] at hmin htie
    have heven := htie (by linarith) (by omega)
    omega

end NearestEven

/-! ## The magnitude -/

/-- `sig` is the significand of the magnitude `a` at the biased exponent `k`: the magnitude in units of `2^k / 2^1074`, rounded;
below 2^53, and at 2^52 or above unless the exponent is the least. -/
structure IsSignificand (a : Rat) (k sig : Nat) : Prop where
  nearest : NearestEven (a * 2 ^ 1074 / 2 ^ k) sig
  lt : a * 2 ^ 1074 / 2 ^ k < 2 ^ 53
  le : k = 0 ∨ 2 ^ 52 ≤ a * 2 ^ 1074 / 2 ^ k

/-- The rendering of a magnitude is its significand below its exponent, or the infinity where that is past the largest number. -/
theorem binary64Magnitude_eq {m d : Nat} (hm : 0 < m) (hd : 0 < d) : ∃ k sig : Nat,
    binary64Magnitude m d = min (k * 2 ^ 52 + sig) (0x7FF * 2 ^ 52) ∧ IsSignificand ((m : Rat) / d) k sig := by
  obtain ⟨hmin, hup, hlow⟩ := binary64Exponent_spec m d hm hd
  have hd' : (0 : Rat) < d := by exact_mod_cast hd
  have h2 : (2 : Rat) ≠ 0 := two_ne_zero
  have hdef : binary64Magnitude m d = min ((binary64Exponent m d + 1022).toNat * 2 ^ 52 +
      if 0 ≤ 52 - binary64Exponent m d then roundHalfEven (m * 2 ^ (52 - binary64Exponent m d).toNat) d
      else roundHalfEven m (d * 2 ^ (-(52 - binary64Exponent m d)).toNat)) (0x7FF * 2 ^ 52) := rfl
  generalize binary64Exponent m d = e at hmin hup hlow hdef
  obtain ⟨k, hk⟩ := Int.eq_ofNat_of_zero_le (show 0 ≤ e + 1022 by omega)
  have hscaled : (m : Rat) / d * 2 ^ 1074 / 2 ^ k = m / d * 2 ^ (52 - e) := by
    rw [show 52 - e = (1074 : Nat) - (k : Int) by omega, zpow_sub₀ h2, zpow_natCast, zpow_natCast, mul_div_assoc]
  refine ⟨k, _, by rw [hdef, hk, Int.toNat_natCast], ?_, ?_, ?_⟩ <;> rw [hscaled]
  · split
    case isTrue hshift =>
      obtain ⟨n, hn⟩ := Int.eq_ofNat_of_zero_le hshift
      have hx := nearestEven_roundHalfEven (m * 2 ^ n) hd
      rw [hn, Int.toNat_natCast, zpow_natCast, div_mul_eq_mul_div]
      exact_mod_cast hx
    case isFalse hshift =>
      obtain ⟨n, hn⟩ := Int.eq_ofNat_of_zero_le (show 0 ≤ -(52 - e) by omega)
      have hx := nearestEven_roundHalfEven m (Nat.mul_pos hd (Nat.two_pow_pos n))
      rw [hn, Int.toNat_natCast, show 52 - e = -(n : Int) by omega, zpow_neg, zpow_natCast, ← div_eq_mul_inv, div_div]
      exact_mod_cast hx
  · rw [div_mul_eq_mul_div, div_lt_iff₀ hd']
    calc (m : Rat) * 2 ^ (52 - e) < d * 2 ^ (e + 1) * 2 ^ (52 - e) := by gcongr
      _ = 2 ^ 53 * d := by
        rw [mul_assoc, ← zpow_add₀ h2, show e + 1 + (52 - e) = (53 : Nat) by omega, zpow_natCast, mul_comm]
  · refine hlow.imp (fun h => by omega) fun h => ?_
    rw [div_mul_eq_mul_div, le_div_iff₀ hd']
    calc (2 : Rat) ^ 52 * d = d * 2 ^ e * 2 ^ (52 - e) := by
          rw [mul_assoc, ← zpow_add₀ h2, show e + (52 - e) = (52 : Nat) by omega, zpow_natCast, mul_comm]
      _ ≤ m * 2 ^ (52 - e) := by gcongr

namespace IsSignificand

variable {a : Rat} {k sig : Nat}

/-- At the largest exponent the unit is 2^971. -/
theorem scaled_largest (a : Rat) : a * 2 ^ 1074 / 2 ^ 2045 = a / 2 ^ 971 := by
  rw [show (2 : Rat) ^ 2045 = 2 ^ 971 * 2 ^ 1074 from pow_add 2 971 1074]
  exact mul_div_mul_right _ _ (pow_ne_zero 1074 two_ne_zero)

/-- The magnitude from which rounding overflows, in the unit of the largest exponent. -/
theorem overflow_eq : (2 ^ 1024 - 2 ^ 970 : Rat) = (2 ^ 53 - 1 / 2) * 2 ^ 971 := by
  rw [show (2 : Rat) ^ 1024 = 2 ^ 53 * 2 ^ 971 from pow_add 2 53 971, show (2 : Rat) ^ 971 = 2 ^ 970 * 2 from pow_succ 2 970]
  generalize (2 : Rat) ^ 970 = u
  ring

/-- Below the overflow the significand and exponent are those of a finite number. -/
theorem finite (h : IsSignificand a k sig) (ha : a < 2 ^ 1024 - 2 ^ 970) : k * 2 ^ 52 + sig < 2047 * 2 ^ 52 ∧ sig ≤ 2 ^ 53 := by
  have hsig : sig ≤ 2 ^ 53 := h.nearest.ge_of_ge (by exact_mod_cast h.lt.le)
  refine ⟨?_, hsig⟩
  rw [overflow_eq] at ha
  obtain hk | rfl | hk := lt_trichotomy k 2045
  · omega
  · have hx : a / 2 ^ 971 < 2 ^ 53 - 1 / 2 := (div_lt_iff₀ (by positivity)).mpr ha
    have hlt : sig ≤ 2 ^ 53 - 1 := by
      refine h.nearest.le_of_add_half_lt ?_
      rw [scaled_largest]
      generalize a / 2 ^ 971 = x at hx
      push_cast
      linarith
    omega
  · obtain rfl | hlow := h.le
    · omega
    · have hpow : (2 ^ 53 * 2 ^ 971 * 2 ^ 1074 : Rat) ≤ 2 ^ 52 * 2 ^ k := by
        rw [show (2 ^ 53 * 2 ^ 971 * 2 ^ 1074 : Rat) = 2 ^ 52 * 2 ^ 2046 by rw [← pow_add, ← pow_add, ← pow_add]]
        gcongr
        · norm_num
        · omega
      have hge : 2 ^ 53 * 2 ^ 971 ≤ a :=
        le_of_mul_le_mul_right (hpow.trans ((le_div_iff₀ (by positivity)).mp hlow)) (by positivity)
      have hunit : (0 : Rat) < 2 ^ 971 := by positivity
      generalize (2 : Rat) ^ 971 = u at ha hge hunit
      linarith

/-- From the overflow on the significand and exponent are past the largest finite number. -/
theorem overflow (h : IsSignificand a k sig) (ha : 2 ^ 1024 - 2 ^ 970 ≤ a) : 2047 * 2 ^ 52 ≤ k * 2 ^ 52 + sig := by
  rw [overflow_eq] at ha
  obtain hk | rfl | hk := lt_trichotomy k 2045
  · have hpow : (2 ^ 53 * 2 ^ k : Rat) ≤ 2 ^ 52 * 2 ^ 971 * 2 ^ 1074 := by
      rw [show (2 ^ 52 * 2 ^ 971 * 2 ^ 1074 : Rat) = 2 ^ 53 * 2 ^ 2044 by rw [← pow_add, ← pow_add, ← pow_add]]
      gcongr
      · norm_num
      · omega
    have hlt : a < 2 ^ 52 * 2 ^ 971 :=
      lt_of_mul_lt_mul_right (((div_lt_iff₀ (by positivity)).mp h.lt).trans_le hpow) (by positivity)
    have hunit : (0 : Rat) < 2 ^ 971 := by positivity
    generalize (2 : Rat) ^ 971 = u at ha hlt hunit
    linarith
  · have hx : 2 ^ 53 - 1 / 2 ≤ a / 2 ^ 971 := (le_div_iff₀ (by positivity)).mpr ha
    have hlt : 2 ^ 53 - 1 < sig := by
      refine h.nearest.lt_of_add_half_le (by norm_num) ?_
      rw [scaled_largest]
      generalize a / 2 ^ 971 = x at hx
      push_cast
      linarith
    omega
  · have hlow : 2 ^ 52 ≤ sig := by
      refine h.nearest.le_of_le ?_
      exact_mod_cast h.le.resolve_left (by omega)
    omega

/-- In units of the significand, no other finite number is nearer to the magnitude, and none is as near unless the significand is
even: it is a whole number of units, or below the least significand with its leading bit set. -/
theorem nearest_scaled (h : IsSignificand a k sig) {f : Nat} (hf : f < 2 ^ 53) (j : Nat) :
    |a * 2 ^ 1074 / 2 ^ k - sig| ≤ |a * 2 ^ 1074 / 2 ^ k - f * 2 ^ j / 2 ^ k| ∧
    (|a * 2 ^ 1074 / 2 ^ k - sig| = |a * 2 ^ 1074 / 2 ^ k - f * 2 ^ j / 2 ^ k| → (f : Rat) * 2 ^ j / 2 ^ k ≠ sig →
      sig % 2 = 0) := by
  obtain hkj | hjk := le_or_gt k j
  · obtain ⟨i, rfl⟩ := Nat.exists_eq_add_of_le hkj
    have hwhole : (f : Rat) * 2 ^ (k + i) / 2 ^ k = (f * 2 ^ i : Nat) := by
      rw [pow_add, mul_left_comm, mul_div_cancel_left₀ _ (pow_ne_zero k two_ne_zero)]
      push_cast
      rfl
    obtain ⟨hle, htie⟩ := h.nearest (f * 2 ^ i)
    rw [hwhole]
    exact ⟨hle, fun heq hne => htie heq fun hsame => hne (congrArg Nat.cast hsame)⟩
  · have hlow := h.le.resolve_left (by omega)
    have hle : |a * 2 ^ 1074 / 2 ^ k - sig| ≤ |a * 2 ^ 1074 / 2 ^ k - 2 ^ 52| := by
      obtain ⟨hle, -⟩ := h.nearest (2 ^ 52)
      rwa [Nat.cast_pow] at hle
    have hsmall : (f : Rat) * 2 ^ j / 2 ^ k < 2 ^ 52 := by
      have hf' : (f : Rat) < 2 ^ 53 := by exact_mod_cast hf
      rw [div_lt_iff₀ (by positivity)]
      calc (f : Rat) * 2 ^ j < 2 ^ 53 * 2 ^ j := by gcongr
        _ = 2 ^ 52 * 2 ^ (j + 1) := by ring
        _ ≤ 2 ^ 52 * 2 ^ k := by
          gcongr
          · norm_num
          · omega
    generalize a * 2 ^ 1074 / 2 ^ k = x at hlow hle
    generalize (f : Rat) * 2 ^ j / 2 ^ k = y at hsmall
    rw [abs_of_nonneg (show 0 ≤ x - 2 ^ 52 by linarith)] at hle
    rw [abs_of_nonneg (show 0 ≤ x - y by linarith)]
    exact ⟨by linarith, fun heq => by linarith⟩

/-- No other finite number is nearer, and none is as near unless the significand is even. -/
theorem nearest_finite (h : IsSignificand a k sig) {f : Nat} (hf : f < 2 ^ 53) (j : Nat) :
    |a - sig * 2 ^ k / 2 ^ 1074| ≤ |a - f * 2 ^ j / 2 ^ 1074| ∧
    (|a - sig * 2 ^ k / 2 ^ 1074| = |a - f * 2 ^ j / 2 ^ 1074| →
      (f : Rat) * 2 ^ j / 2 ^ 1074 ≠ sig * 2 ^ k / 2 ^ 1074 → sig % 2 = 0) := by
  obtain ⟨hle, htie⟩ := h.nearest_scaled hf j
  have hP : (2 : Rat) ^ 1074 ≠ 0 := pow_ne_zero _ two_ne_zero
  have hK : (2 : Rat) ^ k ≠ 0 := pow_ne_zero _ two_ne_zero
  have hunit : (0 : Rat) < 2 ^ k / 2 ^ 1074 := by positivity
  have hscale (y : Rat) : |a - y| = |a * 2 ^ 1074 / 2 ^ k - y * 2 ^ 1074 / 2 ^ k| * (2 ^ k / 2 ^ 1074) := by
    generalize (2 : Rat) ^ 1074 = P at hP hunit
    rw [← abs_of_pos hunit, ← abs_mul]
    congr 1
    field_simp
  have hsig : (sig : Rat) * 2 ^ k / 2 ^ 1074 * 2 ^ 1074 / 2 ^ k = sig := by
    rw [div_mul_cancel₀ _ hP, mul_div_cancel_right₀ _ hK]
  have hf' : (f : Rat) * 2 ^ j / 2 ^ 1074 * 2 ^ 1074 / 2 ^ k = f * 2 ^ j / 2 ^ k := by rw [div_mul_cancel₀ _ hP]
  rw [hscale, hscale (f * 2 ^ j / 2 ^ 1074), hsig, hf']
  refine ⟨mul_le_mul_of_nonneg_right hle hunit.le, fun heq hne => htie (mul_right_cancel₀ hunit.ne' heq) fun hsame => hne ?_⟩
  rw [← hsame, div_mul_cancel₀ _ hK]

end IsSignificand

/-! ## The rendering of a rational -/

/-- A finite binary64 number is at most 53 bits at one of the exponents. -/
theorem abs_of_binary64Value {b : BitVec 64} {w : Rat} (h : binary64Value b = some w) :
    ∃ f j : Nat, f < 2 ^ 53 ∧ |w| = f * 2 ^ j / 2 ^ 1074 := by
  have hfraction : (b.extractLsb' 0 52).toNat < 2 ^ 52 := (b.extractLsb' 0 52).isLt
  unfold binary64Value at h
  simp only [Option.ite_none_left_eq_some, Option.some.injEq] at h
  obtain ⟨-, rfl⟩ := h
  generalize (b.extractLsb' 0 52).toNat = fraction at hfraction
  generalize (b.extractLsb' 52 11).toNat = biased
  have hsign (x : Rat) (hx : 0 ≤ x) : |if b.getLsbD 63 = true then -x else x| = x := by
    split
    · rw [abs_neg, abs_of_nonneg hx]
    · exact abs_of_nonneg hx
  rw [hsign _ (by positivity)]
  cases biased with
  | zero => exact ⟨fraction, 0, by omega, by rw [if_pos rfl, pow_zero, mul_one]⟩
  | succ j =>
    refine ⟨2 ^ 52 + fraction, j, by omega, ?_⟩
    rw [if_neg (Nat.succ_ne_zero j), pow_succ (2 : Rat) j, pow_succ (2 : Rat) 1074, ← mul_assoc, mul_div_mul_right _ _ two_ne_zero]

/-- The magnitude of a rational is the quotient of its numerator's magnitude by its denominator. -/
theorem abs_eq_natAbs_div (q : Rat) : |q| = (q.num.natAbs : Rat) / q.den := by
  conv_lhs => rw [← Rat.num_div_den q]
  rw [abs_div, Nat.abs_cast, Nat.cast_natAbs, Int.cast_abs]

/-- The rendering of a nonzero rational: its sign bit in front of its magnitude. -/
theorem binary64Of_eq {q : Rat} (hq : q ≠ 0) : ∃ k sig : Nat, IsSignificand |q| k sig ∧
    binary64Of q =
      BitVec.ofNat 64 ((if decide (q < 0) = true then 2 ^ 63 else 0) + min (k * 2 ^ 52 + sig) (0x7FF * 2 ^ 52)) := by
  have hnum : q.num ≠ 0 := Rat.num_ne_zero.mpr hq
  obtain ⟨k, sig, hmag, hsig⟩ := binary64Magnitude_eq (Int.natAbs_pos.mpr hnum) q.den_pos
  rw [← abs_eq_natAbs_div] at hsig
  refine ⟨k, sig, hsig, ?_⟩
  rw [binary64Of, if_neg hnum, hmag]
  simp only [Rat.num_neg, decide_eq_true_eq]

/-- The number rendered for 0 is 0. -/
theorem binary64Value_zero : binary64Value 0#64 = some 0 := by
  simpa using binary64Value_magnitude 0 0 false (by norm_num) (by norm_num) (.inl rfl)

/-- From the rational to a number of its own sign it is as far as from magnitude to magnitude. -/
theorem abs_sub_signed (q a : Rat) : |q - (if decide (q < 0) = true then -1 else 1) * a| = |(|q| - a)| := by
  by_cases hneg : q < 0
  · rw [if_pos (decide_eq_true hneg), abs_of_neg hneg, ← abs_neg]
    congr 1
    ring
  · rw [if_neg (by simpa using hneg), abs_of_nonneg (not_lt.mp hneg), one_mul]

/-- A sign leaves the magnitude. -/
theorem abs_signed (c : Prop) [Decidable c] {a : Rat} (ha : 0 ≤ a) : |(if c then -1 else 1) * a| = a := by
  split
  · rw [neg_one_mul, abs_neg, abs_of_nonneg ha]
  · rw [one_mul, abs_of_nonneg ha]

/-- Two different numbers of one magnitude are not equally near to a nonzero rational. -/
theorem eq_of_abs_sub_eq {q v w : Rat} (hq : q ≠ 0) (hdist : |q - v| = |q - w|) (habs : |w| = |v|) : w = v := by
  obtain rfl | rfl := abs_eq_abs.mp habs
  · rfl
  · obtain h | h := abs_eq_abs.mp hdist
    · linarith
    · exact absurd (by linarith : q = 0) hq

/-- The rendering below the overflow is a finite number, no finite number is nearer, and its last bit is 0 where another is as
near. -/
theorem binary64Of_nearest {q : Rat} (hq : |q| < 2 ^ 1024 - 2 ^ 970) : ∃ v, binary64Value (binary64Of q) = some v ∧
    ∀ b w, binary64Value b = some w →
      |q - v| ≤ |q - w| ∧ (|q - v| = |q - w| → w ≠ v → (binary64Of q).getLsbD 0 = false) := by
  by_cases hzero : q = 0
  · subst hzero
    refine ⟨0, binary64Value_zero, fun b w _ => ⟨by simp, fun _ _ => rfl⟩⟩
  obtain ⟨k, sig, hsig, hpattern⟩ := binary64Of_eq hzero
  obtain ⟨hfinite, hle⟩ := hsig.finite hq
  rw [min_eq_left (by omega)] at hpattern
  have hnormal : k = 0 ∨ 2 ^ 52 ≤ sig := hsig.le.imp_right fun h => hsig.nearest.le_of_le (by rwa [Nat.cast_pow])
  have hvalue := binary64Value_magnitude k sig (decide (q < 0)) hfinite hle hnormal
  rw [← hpattern] at hvalue
  refine ⟨_, hvalue, fun b w hw => ?_⟩
  obtain ⟨f, j, hf, hwabs⟩ := abs_of_binary64Value hw
  obtain ⟨hnearer, htie⟩ := hsig.nearest_finite hf j
  have hmagnitude : (0 : Rat) ≤ sig * 2 ^ k / 2 ^ 1074 := by positivity
  have hdist := abs_sub_signed q (sig * 2 ^ k / 2 ^ 1074)
  rw [← hwabs] at hnearer htie
  have hreverse : |(|q| - |w|)| ≤ |q - w| := abs_abs_sub_abs_le q w
  refine ⟨hdist.trans_le (hnearer.trans hreverse), fun heq hne => ?_⟩
  have heven : sig % 2 = 0 := by
    refine htie (le_antisymm hnearer ?_) fun hsame => hne ?_
    · rw [← hdist, heq]
      exact hreverse
    · exact eq_of_abs_sub_eq hzero heq (hsame.trans (abs_signed _ hmagnitude).symm)
  have hlast : ((if decide (q < 0) = true then 2 ^ 63 else 0) + (k * 2 ^ 52 + sig)) % 2 = 0 := by split <;> omega
  rw [hpattern, BitVec.getLsbD_ofNat, Nat.testBit_zero, hlast]
  rfl

/-- From the overflow on the rendering is the infinity of the rational's sign. -/
theorem binary64Of_overflow {q : Rat} (hq : 2 ^ 1024 - 2 ^ 970 ≤ |q|) :
    binary64Of q = if q < 0 then 0xFFF0000000000000#64 else 0x7FF0000000000000#64 := by
  have hzero : q ≠ 0 := by
    rintro rfl
    rw [abs_zero, IsSignificand.overflow_eq] at hq
    exact absurd hq (not_le.mpr (mul_pos (by norm_num) (by positivity)))
  obtain ⟨k, sig, hsig, hpattern⟩ := binary64Of_eq hzero
  rw [hpattern, min_eq_right (hsig.overflow hq)]
  by_cases hneg : q < 0
  · rw [if_pos (decide_eq_true hneg), if_pos hneg]
    rfl
  · rw [if_neg (by simpa using hneg), if_neg hneg]
    rfl

/-- Settles O60: the rounding, the finite numbers, the overflow, and the two views as their exact quotients. -/
theorem binaryRoundingIsNearestEven : Obligations.BinaryRoundingIsNearestEven :=
  ⟨roundHalfEven_nearest, fun _ h => binary64Of_nearest h, fun _ h => binary64Of_overflow h,
    fun c => congrArg binary64Of (normOf_eq_div c), fun e f => congrArg binary64Of (errorRateOf_eq_div e f)⟩

end Sys2Proof.Machine
